-- ==== Sys2Proof/Word.lean ====
section
/-! DEFINITION. The widths of the block's data (00_scope.md R9, R10): bytes, ring cursors, u16 fields and 32-bit registers. -/

namespace Sys2Proof

/-- A byte: 8 bits, unsigned (R9). -/
abbrev Byte := BitVec 8

/-- A ring cursor, `CW` = 8 bits wide, so that its arithmetic is `mod C` (R20, R23, R24). -/
abbrev Cursor := BitVec 8

/-- A `u16`, an unsigned 16-bit value (R9). -/
abbrev U16 := BitVec 16

/-- A host register or command word, 32 bits (R34). -/
abbrev Word := BitVec 32

end Sys2Proof
end

