-- ==== Sys2Proof/Config.lean ====
section
/-! DEFINITION. What an implementation fixes: the form of the parameters of 00_scope.md R7 and R8, and the values nothing fixes, which are
constants without a body. The values of the others are in Machine/Parameters.lean. -/

namespace Sys2Proof.Config

/-- The parameters of the CRC function (R160): polynomial, initial value and final XOR; no reflection. -/
structure CrcParams where
  poly : U16
  init : U16
  finalXor : U16
  deriving DecidableEq, Repr

/-- The command ids of the multiplexer, one per row of R181 in its order. -/
structure CommandIds where
  versionQuery : U16
  eepromRead : U16
  eepromWrite : U16
  rfTelemetryRead : U16
  batteryTelemetryRead : U16
  challengeResponse : U16
  reconfigure : U16
  reboot : U16
  deriving DecidableEq, Repr

/-- The parameters of R7. -/
structure Params where
  /-- `C`, the ring capacity in bytes. -/
  ringCapacity : Nat
  /-- `CW`, the cursor width in bits; `Cursor` has this width. -/
  cursorWidth : Nat
  /-- `HDR_LEN`. -/
  headerLength : Nat
  /-- `FTR_LEN`. -/
  footerLength : Nat
  /-- `MIN_FRAME`, the smallest frame. -/
  minFrame : Nat
  /-- `MAX_SIZE`, the largest size the size check admits. -/
  maxSize : Nat
  /-- `FS_CAP` (decision D18). -/
  frameCapacity : Nat
  /-- `RB_CAP` (decision D17). -/
  replyCapacity : Nat
  /-- `NSEL`, the number of handler-select values (decision D14). -/
  selects : Nat
  markS0 : Byte
  markS1 : Byte
  markF0 : Byte
  markF1 : Byte
  /-- `KEY[0..15]`: a 16-entry table (R141). -/
  key : Vector Byte 16
  crc : CrcParams
  ids : CommandIds
  /-- `ID_RESYNC`; `ID_PLAIN` is `ids.versionQuery` (R7). -/
  idResync : U16
  replyMark : U16
  replyFooterMark : U16
  replyPad : Byte
  deriving DecidableEq, Repr

/-- `BLOCK_BASE`, the platform address of the register interface: OPEN (R34, R56, D3; log entry 17). Every rule of the block is by
offset, so no definition of the machine reads it. -/
opaque blockBase : Nat

/-- The platform address of a register-interface offset (R34). -/
def platformAddress (offset : Nat) : Nat := blockBase + offset

/-- FREE VALUE: the byte a window read of an unwritten byte gives the host, at the n-th such read. The spec defines none (R235); log
entry 7. -/
opaque unwrittenByte : Nat → Byte

/-! ### The handler environment's parameters (R8; outside the block) -/

/-- `KILLED_FLAG_ADDR`: OPEN (R8, D33; log entry 14). -/
opaque killedFlagAddr : Nat

/-- `PASSWORD_RANGE`, first byte and end: OPEN (R8, D33; log entry 14). -/
opaque passwordRange : Nat × Nat

/-- `SESSION_TICKS`: OPEN (R8, D33; log entry 14). -/
opaque sessionTicks : Nat

/-- Reply ids of R279, environment parameters with general-knowledge values (93 G5; log entry 14). -/
structure ReplyIds where
  version : U16
  eepromRead : U16
  eepromWrite : U16
  rfTelemetry : U16
  battery : U16
  challengeResponse : U16
  deriving DecidableEq, Repr

/-- A 128-bit block: four u32 values (R263, R264). -/
structure Block where
  w0 : Word
  w1 : Word
  w2 : Word
  w3 : Word
  deriving DecidableEq, Repr, Inhabited

/-- The all-zero block, the IV of R264. -/
def Block.zero : Block := ⟨0, 0, 0, 0⟩

/-- `cipher.encrypt_block(key, iv, in_block)`: an external collaborator (R264). -/
opaque encryptBlock : Block → Block → Block → Block

/-- The default key; its value is not in the source (R264, N12). -/
opaque defaultKey : Block

/-- The custom key, where one is present (R264, N12). DESIGN CHOICE (log entry 15, unsafe): fixed, so a write to `KEY_RANGE`
does not change it. -/
opaque customKey : Block

/-- Whether a custom key is present: supplied by the environment (R261). DESIGN CHOICE (log entry 15, unsafe): fixed from the start on. -/
opaque customKeyPresent : Bool

/-- The n-th challenge draw, every value possible (R263, D31). -/
opaque challengeDraw : Nat → Block

/-- The n-th timestamp captured by a version query (R262, N8). DESIGN CHOICE (log entry 14, unsafe): 32 bits wide. -/
opaque timestampDraw : Nat → Word

/-- The n-th RSSI, noise and glitch sample (R273). DESIGN CHOICE (log entry 14, unsafe): each value 32 bits wide; no rule gives a width (N5). -/
opaque telemetryDraw : Nat → Word × Word × Word

/-- The n-th battery voltage and current (R274). DESIGN CHOICE (log entry 14, unsafe): each 32 bits wide; no rule gives a width (N5). -/
opaque batteryDraw : Nat → Word × Word

/-- The firmware version string (R262; not in the source). -/
opaque versionString : List Byte

/-- What EEPROM bytes hold before anything writes them (R270; not in the source). -/
opaque eepromContents : Nat → Byte

/-- Whether a password lock is active: passed in (R270). DESIGN CHOICE (log entry 15, unsafe): fixed from the start on; where it comes from and
whether it can change between commands is not in the source (N7). -/
opaque passwordLockActive : Bool

/-- The "killed" flag before anything clears it (R272, N6). -/
opaque killedInitially : Bool

/-- The radio-configuration fields before any reconfigure, and the defaults reconfigure gives them (R275, N13). -/
opaque radioInitial : List Byte

/-- The defaults of R275 (N13). -/
opaque radioDefaults : List Byte

/-! Where the payload of a command holds its fields is not in the source (N5): each reader below is a constant without a body. -/

/-- The (offset, size) an eeprom-read frame asks for (R271, N5). DESIGN CHOICE (log entry 14, unsafe): both fields are 16 bits wide; the source
gives only the collaborator's `addr: u16` and `len: u8` (R270). -/
opaque readRequest : List Byte → U16 × U16

/-- The (offset, size) an eeprom-write frame asks for (R272, N5). DESIGN CHOICE (log entry 14, unsafe): both fields are 16 bits wide. -/
opaque writeRequest : List Byte → U16 × U16

/-- The k-th data byte of an eeprom-write frame (R272, N5). DESIGN CHOICE (log entry 21, unsafe): where the frame's inner size claims more data
than its payload holds, the bytes beyond it are free functions of the frame, never the stale bytes of `FS`. -/
opaque writeData : List Byte → Nat → Byte

/-- The "allow password" bit of an eeprom-write frame (R272, N7). -/
opaque allowPassword : List Byte → Bool

/-- The 128-bit response block of a challenge-response frame (R264, N5). -/
opaque responseBlock : List Byte → Block

/-! The layout of a reply's body after its inner header is not in the source either (R279, N5). -/

/-- Version reply: version string, custom-key flag, password-lock flag, challenge (R262). -/
opaque versionBody : List Byte → Bool → Bool → Block → List Byte

/-- eeprom-read reply: offset, size, data (R271). -/
opaque readBody : U16 → Nat → List Byte → List Byte

/-- eeprom-write reply: the offset (R272). -/
opaque writeBody : U16 → List Byte

/-- RF telemetry reply: the raw values (R273). -/
opaque telemetryBody : Word × Word × Word → List Byte

/-- Battery reply: voltage and current (R274). -/
opaque batteryBody : Word × Word → List Byte

/-- challenge-response reply: the `locked` flag (R268). -/
opaque lockBody : Bool → List Byte

end Sys2Proof.Config
end

