-- ==== Sys2Proof/Machine/Parameters.lean ====
section
/-! DEFINITION. This hardware's values of the parameters of 00_scope.md R7, and the environment's of R8. -/

namespace Sys2Proof.Config

/-- This hardware's parameter values (R7, R141, R160, R181). The lengths, the markers, the footer
marker and the pad are the source's, the capacities and the select count decisions D14, D17 and D18; `key`, `crc`,
`ids` and `idResync` are the values the spec gives from general knowledge (UNVERIFIED, log entries 9 to 12); `replyMark` follows
90_conflicts.md C2 (UNVERIFIED, log entry 13). -/
def device : Params where
  ringCapacity := 256
  cursorWidth := 8
  headerLength := 4
  footerLength := 4
  minFrame := 8
  maxSize := 248
  frameCapacity := 256
  replyCapacity := 256
  selects := 9
  markS0 := 0xAB#8
  markS1 := 0xCD#8
  markF0 := 0xDC#8
  markF1 := 0xBA#8
  key := #v[0x16#8, 0x6C#8, 0x14#8, 0xE6#8, 0x2E#8, 0x91#8, 0x0D#8, 0x40#8,
            0x21#8, 0x35#8, 0xD5#8, 0x40#8, 0x13#8, 0x03#8, 0xE9#8, 0x80#8]
  crc := ⟨0x1021#16, 0x0000#16, 0x0000#16⟩
  ids := ⟨0x0514#16, 0x051B#16, 0x051D#16, 0x0527#16, 0x0529#16, 0x052D#16, 0x052F#16, 0x05DD#16⟩
  idResync := 0x6902#16
  replyMark := 0xCDAB#16
  replyFooterMark := 0xBADC#16
  replyPad := 0xFF#8

/-- `C`, the ring capacity in bytes (R7). -/
def ringCapacity : Nat := device.ringCapacity

/-- `HDR_LEN` (R7). -/
def headerLength : Nat := device.headerLength

/-- `MIN_FRAME` = `HDR_LEN + FTR_LEN`, the smallest frame (R7). -/
def minFrame : Nat := device.minFrame

/-- `RB_CAP` (R7). -/
def replyCapacity : Nat := device.replyCapacity

/-- `FS_CAP` (R7). -/
def frameCapacity : Nat := device.frameCapacity

/-- The largest payload size a frame can be extracted with, `C - 9`: one less than `MAX_SIZE` (R7, R75). -/
def maxExtracted : Nat := device.maxSize - 1

/-- `ID_PLAIN` = `ID_VERSION_QUERY` (R7). -/
def idPlain : U16 := device.ids.versionQuery

/-- `EEPROM_SIZE` (R8, R270). -/
def eepromSize : Nat := 0x2000

/-- `READ_MAX` (R8, R271). -/
def readMax : Nat := 128

/-- `WRITE_CHUNK` (R8, R272). -/
def writeChunk : Nat := 8

/-- `KEY_RANGE` = [0x0F30, 0x0F40) (R8, R272), as first byte and end. -/
def keyRange : Nat × Nat := (0x0F30, 0x0F40)

/-- `MAX_ATTEMPTS` (R8). -/
def maxAttempts : Nat := 3

/-- `INIT_ATTEMPTS` (R261, D32). -/
def initAttempts : Nat := 0

/-- `RECONF_LOCKED_REPLIES` (R275, D29). -/
def reconfLockedReplies : Bool := true

/-- The values of R279; reconfigure replies with `version`. -/
def replyIds : ReplyIds := ⟨0x0515#16, 0x051C#16, 0x051E#16, 0x0528#16, 0x052A#16, 0x052E#16⟩

end Sys2Proof.Config
end

