-- ==== Sys2Proof/Syntax.lean ====
section
/-! DEFINITION. What the agents can ask of the block (host accesses, producer bytes, RESET; 30_encoding.md R85, R86), and the
instructions those requests decode to: one constructor per row of opcode_table.json. -/

namespace Sys2Proof

/-- The direction of a host access. -/
inductive Direction where
  | read
  | write
  deriving DecidableEq, Repr

/-- A host access of `bytes` bytes at `offset` from `BLOCK_BASE` (R11 `MemRead`, `MemWrite`; R52). `data` is the value a write carries,
its low byte for a single-byte write; a read ignores it. -/
structure Access where
  dir : Direction
  bytes : Nat
  offset : Nat
  data : Word
  deriving DecidableEq, Repr

/-- What stands in the script of steps to come. `host`, `dma` and `envReset` are the steps of R86's three agents. `rawId` presents a raw
id to the mode-toggle decoder (R84, R142) and `command` presents a deobfuscated id, with the frame's size, to the multiplexer (R83, R180):
inside a POLL the block does both itself, and no agent issues them (DESIGN CHOICE, log entry 4). -/
inductive Request where
  | host (a : Access)
  | dma (b : Byte)
  | envReset
  | rawId (raw : U16)
  | command (id : U16) (size : U16)
  deriving DecidableEq, Repr

/-- The rows of opcode_table.json. -/
inductive Instr where
  /-- NOP (R230). -/
  | nop
  /-- POLL (R100). -/
  | poll
  /-- REPLY with `LEN` (R210). -/
  | reply (len : U16)
  /-- COMPLETE (R191). -/
  | complete
  /-- RESERVED_OP, the row of `OP` 0x4 to 0x7, with the word written (R231). -/
  | reservedOpLow (v : Word)
  /-- RESERVED_OP, the row of `OP` 0x8 to 0xF, with the word written (R231). -/
  | reservedOpHigh (v : Word)
  /-- ILLFORMED_RSV, with the word written (R236). -/
  | illformedRsv (v : Word)
  /-- CMD_VERSION_QUERY, with the frame's size (R182). -/
  | cmdVersionQuery (size : U16)
  /-- CMD_EEPROM_READ (R183). -/
  | cmdEepromRead (size : U16)
  /-- CMD_EEPROM_WRITE (R184). -/
  | cmdEepromWrite (size : U16)
  /-- CMD_RF_TELEMETRY_READ (R185). -/
  | cmdRfTelemetryRead (size : U16)
  /-- CMD_BATTERY_TELEMETRY_READ (R186). -/
  | cmdBatteryTelemetryRead (size : U16)
  /-- CMD_CHALLENGE_RESPONSE (R187). -/
  | cmdChallengeResponse (size : U16)
  /-- CMD_RECONFIGURE (R188). -/
  | cmdReconfigure (size : U16)
  /-- CMD_REBOOT (R189). -/
  | cmdReboot (size : U16)
  /-- CMD_UNIMPLEMENTED, with the id that matched no row (R190). -/
  | cmdUnimplemented (id : U16) (size : U16)
  /-- TOGGLE_PLAIN (R142). -/
  | togglePlain
  /-- TOGGLE_RESYNC (R142). -/
  | toggleResync
  /-- RD_CTRL (R234). -/
  | rdCtrl
  /-- RD_STATUS (R234). -/
  | rdStatus
  /-- RD_CURSOR (R234). -/
  | rdCursor
  /-- RD_FRAME (R234). -/
  | rdFrame
  /-- RD_DISPATCH (R234). -/
  | rdDispatch
  /-- RDFS i (R235). -/
  | rdfs (i : BitVec 8)
  /-- RDRB i (R235). -/
  | rdrb (i : BitVec 8)
  /-- WRB i, v (R235). -/
  | wrb (i : BitVec 8) (v : Byte)
  /-- ILLFORMED_ACCESS, with the access (R237). -/
  | illformedAccess (a : Access)
  /-- PUSH b (R232). -/
  | push (b : Byte)
  /-- RESET (R240). -/
  | reset
  deriving DecidableEq, Repr

end Sys2Proof
end

