-- ==== Sys2Proof/Machine/Operands.lean ====
section
/-! DEFINITION. Operand forms that need no state: little-endian pairs (R10, R50), the fields of a command word (R80), the fields of a ring
position and the index lists of the three memories (R20, R53, R55), which host accesses the register map allows (R34, R52), and which ids
and sizes the multiplexer knows (R75, R181). -/

namespace Sys2Proof.Machine

/-- `lo8(v)` = `v[7:0]` (R10). -/
def lo8 (v : U16) : Byte := v.extractLsb' 0 8

/-- `hi8(v)` = `v[15:8]` (R10). -/
def hi8 (v : U16) : Byte := v.extractLsb' 8 8

/-- `le16(b0, b1)`: the first byte is the least significant (R10, R50). -/
def le16 (b0 b1 : Byte) : U16 := b1 ++ b0

/-- The two bytes of a u16 in wire order (R50). -/
def bytesOf (v : U16) : List Byte := [lo8 v, hi8 v]

/-- `OP`, bits [3:0] of a command word (R80). -/
def opField (v : Word) : BitVec 4 := v.extractLsb' 0 4

/-- `RSV`, bits [15:4] of a command word (R80). -/
def rsvField (v : Word) : BitVec 12 := v.extractLsb' 4 12

/-- `LEN`, bits [31:16] of a command word (R80). -/
def lenField (v : Word) : U16 := v.extractLsb' 16 16

/-- The command word with the given `OP` and `LEN` and `RSV = 0` (R80, R81). -/
def commandWord (op : BitVec 4) (len : U16) : Word := len ++ (0#12 ++ op)

/-- The ring index `(p + k) mod C` (R20, R53). -/
def ringIndex (p : Cursor) (k : Nat) : Nat := (p + BitVec.ofNat 8 k).toNat

/-- The `n` ring indices from `p` on, in order, wrapping at `C` (R53, R114). -/
def ringSpan (p : Cursor) (n : Nat) : List Nat := (List.range n).map (ringIndex p)

/-- The length of a frame with this payload size, `size + MIN_FRAME` (R7, R70), exact (R108). -/
def frameLength (size : U16) : Nat := size.toNat + Config.minFrame

/-- The frame offset of the footer markers: behind header, payload and CRC (R70, R110). -/
def footerOffset (size : U16) : Nat := size.toNat + (Config.headerLength + 2)

/-- `(w - p) mod C`: how many bytes lie from `p` up to, not including, `w` (R13, R36, R105). -/
def pendingCount (p w : Cursor) : Nat := (w - p).toNat

end Sys2Proof.Machine

namespace Sys2Proof

/-- The five register offsets (R34). -/
def registerOffsets : List Nat := [0x000, 0x004, 0x008, 0x00C, 0x010]

/-- A 32-bit read of a register (R52, R234). -/
def Access.isRegisterRead (a : Access) : Bool :=
  a.dir == .read && a.bytes == 4 && registerOffsets.contains a.offset

/-- A 32-bit write to CTRL (R34, R52). -/
def Access.isCtrlWrite (a : Access) : Bool :=
  a.dir == .write && a.bytes == 4 && a.offset == 0

/-- A byte read in the FS window (R38, R52). -/
def Access.isFrameRead (a : Access) : Bool :=
  a.dir == .read && a.bytes == 1 && decide (0x100 ≤ a.offset) && decide (a.offset < 0x200)

/-- A byte read in the RB window (R38, R52). -/
def Access.isReplyRead (a : Access) : Bool :=
  a.dir == .read && a.bytes == 1 && decide (0x200 ≤ a.offset) && decide (a.offset < 0x300)

/-- A byte write in the RB window (R38, R52). -/
def Access.isReplyWrite (a : Access) : Bool :=
  a.dir == .write && a.bytes == 1 && decide (0x200 ≤ a.offset) && decide (a.offset < 0x300)

/-- A host access that is not ill-formed (R39, R52, R237). -/
def Access.wellFormed (a : Access) : Bool :=
  a.isRegisterRead || a.isCtrlWrite || a.isFrameRead || a.isReplyRead || a.isReplyWrite

/-- The eight ids of R181. -/
def commandIds : List U16 :=
  let ids := Config.device.ids
  [ids.versionQuery, ids.eepromRead, ids.eepromWrite, ids.rfTelemetryRead, ids.batteryTelemetryRead, ids.challengeResponse,
    ids.reconfigure, ids.reboot]

/-- A payload size a frame can be extracted with (R75). -/
def extractableSize (size : U16) : Bool := decide (size.toNat ≤ Config.maxExtracted)

end Sys2Proof
end

