-- ==== Sys2Proof/WellFormed.lean ====
section
/-! DEFINITION. Which requests an agent issues, and which instruction terms stand for a request: the operands of each row lie in the row's
encoding and in no row of higher priority. -/

namespace Sys2Proof

/-- A request one of R86's three agents issues. -/
def Request.fromAgent : Request → Bool
  | .host _ => true
  | .dma _ => true
  | .envReset => true
  | .rawId _ => false
  | .command _ _ => false

/-- An instruction whose operands its row admits. -/
def Instr.wf : Instr → Bool
  | .nop => true
  | .poll => true
  | .reply _ => true
  | .complete => true
  | .reservedOpLow v => decide (4 ≤ (Machine.opField v).toNat) && decide ((Machine.opField v).toNat < 8)
  | .reservedOpHigh v => decide (8 ≤ (Machine.opField v).toNat)
  | .illformedRsv v =>
    decide ((Machine.opField v).toNat < 4) &&
      (Machine.rsvField v != 0 || (Machine.opField v != 2 && Machine.lenField v != 0))
  | .cmdVersionQuery size => extractableSize size
  | .cmdEepromRead size => extractableSize size
  | .cmdEepromWrite size => extractableSize size
  | .cmdRfTelemetryRead size => extractableSize size
  | .cmdBatteryTelemetryRead size => extractableSize size
  | .cmdChallengeResponse size => extractableSize size
  | .cmdReconfigure size => extractableSize size
  | .cmdReboot size => extractableSize size
  | .cmdUnimplemented id size => extractableSize size && !commandIds.contains id
  | .togglePlain => true
  | .toggleResync => true
  | .rdCtrl => true
  | .rdStatus => true
  | .rdCursor => true
  | .rdFrame => true
  | .rdDispatch => true
  | .rdfs _ => true
  | .rdrb _ => true
  | .wrb _ _ => true
  | .illformedAccess a => !a.wellFormed
  | .push _ => true
  | .reset => true

end Sys2Proof
end

