-- ==== Sys2Proof/Decode.lean ====
section
/-! DEFINITION. The decoders of 30_encoding.md (command words R80 to R82, host accesses R34 and R52, command ids R83, raw ids R84), total,
the encoder, and the reading of one opcode-table word. -/

namespace Sys2Proof

/-- Why a request is not an instruction. Neither is raised for a step of R86's agents (log entry 4). -/
inductive DecodeError where
  /-- A raw id that is neither `ID_PLAIN` nor `ID_RESYNC`: it toggles nothing (R84), and no row stands for it. -/
  | rawIdTogglesNothing
  /-- A size no frame can be extracted with (R75), so that no POLL presents it to the multiplexer. -/
  | frameNeverExtracted
  deriving DecidableEq, Repr

/-- A command word written to CTRL: the form check comes before the operation (R80 to R82, R231, R236). -/
def decodeCtrl (v : Word) : Instr :=
  if 8 ≤ (Machine.opField v).toNat then .reservedOpHigh v
  else if 4 ≤ (Machine.opField v).toNat then .reservedOpLow v
  else if Machine.rsvField v ≠ 0 ∨ (Machine.opField v ≠ 2 ∧ Machine.lenField v ≠ 0) then .illformedRsv v
  else if Machine.opField v = 0 then .nop
  else if Machine.opField v = 1 then .poll
  else if Machine.opField v = 2 then .reply (Machine.lenField v)
  else .complete

/-- The register a 32-bit read names (R34, R234); the last arm is offset 0x010. -/
def decodeRegisterRead (offset : Nat) : Instr :=
  if offset = 0x000 then .rdCtrl
  else if offset = 0x004 then .rdStatus
  else if offset = 0x008 then .rdCursor
  else if offset = 0x00C then .rdFrame
  else .rdDispatch

/-- A host access (R34, R52, R235, R237): whatever no row takes is ILLFORMED_ACCESS. -/
def decodeAccess (a : Access) : Instr :=
  if a.isRegisterRead then decodeRegisterRead a.offset
  else if a.isCtrlWrite then decodeCtrl a.data
  else if a.isFrameRead then .rdfs (BitVec.ofNat 8 a.offset)
  else if a.isReplyRead then .rdrb (BitVec.ofNat 8 a.offset)
  else if a.isReplyWrite then .wrb (BitVec.ofNat 8 a.offset) (a.data.extractLsb' 0 8)
  else .illformedAccess a

/-- The multiplexer's decode of a deobfuscated command id: exact match on all 16 bits (R83, R181, R190). -/
def decodeCommand (id size : U16) : Instr :=
  if id = Config.device.ids.versionQuery then .cmdVersionQuery size
  else if id = Config.device.ids.eepromRead then .cmdEepromRead size
  else if id = Config.device.ids.eepromWrite then .cmdEepromWrite size
  else if id = Config.device.ids.rfTelemetryRead then .cmdRfTelemetryRead size
  else if id = Config.device.ids.batteryTelemetryRead then .cmdBatteryTelemetryRead size
  else if id = Config.device.ids.challengeResponse then .cmdChallengeResponse size
  else if id = Config.device.ids.reconfigure then .cmdReconfigure size
  else if id = Config.device.ids.reboot then .cmdReboot size
  else .cmdUnimplemented id size

/-- The mode-toggle decode of a raw id (R84, R142). -/
def decodeRawId (raw : U16) : Option Instr :=
  if raw = Config.idPlain then some .togglePlain
  else if raw = Config.device.idResync then some .toggleResync
  else none

/-- The instruction a request stands for. -/
def decode : Request → Except DecodeError Instr
  | .host a => .ok (decodeAccess a)
  | .dma b => .ok (.push b)
  | .envReset => .ok .reset
  | .rawId raw =>
    match decodeRawId raw with
    | some i => .ok i
    | none => .error .rawIdTogglesNothing
  | .command id size =>
    if extractableSize size then .ok (decodeCommand id size) else .error .frameNeverExtracted

/-- A CTRL write of `v` (R80). -/
def ctrlWrite (v : Word) : Request := .host ⟨.write, 4, 0x000, v⟩

/-- A 32-bit register read (R85 `RD`). -/
def registerRead (offset : Nat) : Request := .host ⟨.read, 4, offset, 0⟩

/-- The request that stands for an instruction (R81, R85, R181, R142). -/
def encode : Instr → Request
  | .nop => ctrlWrite (Machine.commandWord 0 0)
  | .poll => ctrlWrite (Machine.commandWord 1 0)
  | .reply len => ctrlWrite (Machine.commandWord 2 len)
  | .complete => ctrlWrite (Machine.commandWord 3 0)
  | .reservedOpLow v => ctrlWrite v
  | .reservedOpHigh v => ctrlWrite v
  | .illformedRsv v => ctrlWrite v
  | .cmdVersionQuery size => .command Config.device.ids.versionQuery size
  | .cmdEepromRead size => .command Config.device.ids.eepromRead size
  | .cmdEepromWrite size => .command Config.device.ids.eepromWrite size
  | .cmdRfTelemetryRead size => .command Config.device.ids.rfTelemetryRead size
  | .cmdBatteryTelemetryRead size => .command Config.device.ids.batteryTelemetryRead size
  | .cmdChallengeResponse size => .command Config.device.ids.challengeResponse size
  | .cmdReconfigure size => .command Config.device.ids.reconfigure size
  | .cmdReboot size => .command Config.device.ids.reboot size
  | .cmdUnimplemented id size => .command id size
  | .togglePlain => .rawId Config.idPlain
  | .toggleResync => .rawId Config.device.idResync
  | .rdCtrl => registerRead 0x000
  | .rdStatus => registerRead 0x004
  | .rdCursor => registerRead 0x008
  | .rdFrame => registerRead 0x00C
  | .rdDispatch => registerRead 0x010
  | .rdfs i => .host ⟨.read, 1, 0x100 + i.toNat, 0⟩
  | .rdrb i => .host ⟨.read, 1, 0x200 + i.toNat, 0⟩
  | .wrb i v => .host ⟨.write, 1, 0x200 + i.toNat, v.zeroExtend 32⟩
  | .illformedAccess a => .host a
  | .push b => .dma b
  | .reset => .envReset

/-- An access with the bits the block does not read cleared: a read's data, and a byte write's upper data (R11, R52). An ill-formed access
and a CTRL write stay as they are. -/
def Access.canonical (a : Access) : Access :=
  if a.isRegisterRead || a.isFrameRead || a.isReplyRead then ⟨a.dir, a.bytes, a.offset, 0⟩
  else if a.isReplyWrite then ⟨a.dir, a.bytes, a.offset, (a.data.extractLsb' 0 8).zeroExtend 32⟩
  else a

/-- A request with the bits the block does not read cleared. -/
def Request.canonical : Request → Request
  | .host a => .host a.canonical
  | .dma b => .dma b
  | .envReset => .envReset
  | .rawId raw => .rawId raw
  | .command id size => .command id size

/-- The request a word of opcode_table.json stands for. The table's formats (CTRL32, CMDID16, RAWID16, HOSTREAD, HOSTWRITE) are not in
the word, so the width and the value choose (DESIGN CHOICE, log entry 16): an 8-bit word is a CTRL word whose upper bits are 0 where its
`OP` is reserved and else a command id; a 16-bit word is a command id where it is one of the eight, the resync id, `REPLY 0`, a host read
where it is an offset, and else a command id no row matches; every other width is a CTRL word. The operand the table gives no bits, the
frame's size, is 0. -/
def tableRequest (nbits w : Nat) : Request :=
  if nbits = 16 then
    if commandIds.contains (BitVec.ofNat 16 w) then .command (BitVec.ofNat 16 w) 0
    else if BitVec.ofNat 16 w = Config.device.idResync then .rawId (BitVec.ofNat 16 w)
    else if w = 2 then ctrlWrite (BitVec.ofNat 32 w)
    else if w < 0x100 then registerRead w
    else if w < 0x300 then .host ⟨.read, 1, w, 0⟩
    else .command (BitVec.ofNat 16 w) 0
  else if nbits = 8 then
    if 4 ≤ w % 16 then ctrlWrite (BitVec.ofNat 32 w) else .command (BitVec.ofNat 16 w) 0
  else ctrlWrite (BitVec.ofNat 32 w)

/-- The instruction the decoder reads from a word of opcode_table.json. -/
def decodeTableWord (nbits w : Nat) : Option Instr :=
  match decode (tableRequest nbits w) with
  | .ok i => some i
  | .error _ => none

end Sys2Proof
end

