-- ==== Sys2Proof/Machine/State.lean ====
section
/-! DEFINITION. The block's state (10_state.md), the model faults (R300), and the state after reset (R42, R340, R341). -/

namespace Sys2Proof.Machine

/-- The model faults of R300. A step of the machine RECORDS one in `State.faults`, sets its sticky bit and goes on (R304's reading for the
hardware; log entry 1); `modelStep` of Safety.lean, R304's terminal reading, ENDS with it. Each is safe: no claim about a fault-free run
reaches past it. -/
inductive Fault where
  /-- Raised by a CTRL write with `OP` in 0x4 to 0xF, `RSV` non-zero, or `LEN` non-zero off REPLY (R231, R236). Safe. -/
  | badopCtrl
  /-- Raised by REPLY with `LEN > RB_CAP` (R210). Safe. -/
  | replyTooLong
  /-- Raised by POLL with `BUSY = 1` (R102). Safe. -/
  | seqPollWhileBusy
  /-- Raised by COMPLETE with `BUSY = 0` (R191). Safe. -/
  | seqCompleteWhileIdle
  /-- Raised by an ill-formed host access (R237). Safe. -/
  | badopAccess
  /-- Raised by a host window read, REPLY or POLL that reads a byte not written since reset (R20 to R22, R210, R235). Safe. -/
  | unwrittenRead
  /-- Raised by PUSH with 255 bytes pending (R233). Safe: the device would overwrite unread bytes. -/
  | overrun
  deriving DecidableEq, Repr

/-- Why a step has no meaning. -/
inductive Refusal where
  /-- Raised by `exec` for an instruction without a meaning; no arm does so now. Safe. -/
  | notModelled (mnemonic : String)
  /-- Raised by `step` for a script entry that presents to the multiplexer a frame size POLL never extracts (R75). No agent's request is
  one (log entry 4). Safe. -/
  | frameNeverExtracted
  deriving DecidableEq, Repr

/-- `RESULT`, the outcome of the last POLL (R28); the codes are in Flags.lean. -/
inductive PollResult where
  | idle
  | frameOk
  | noData
  | noMarker
  | incomplete
  | sizeOverflow
  | badFooter
  | crcMismatch
  deriving DecidableEq, Repr

/-- A byte memory: the written bytes by rising address, one entry each. An unlisted address holds no value (R20, R21, R22). -/
abbrev Memory := List Host.Cell

/-- The block's state, its two append-only records, and the model's own three fields. -/
structure State where
  /-- `RING` (R20). -/
  ring : Memory
  /-- `FS`, the frame store (R21). -/
  fs : Memory
  /-- `RB`, the reply buffer (R22). -/
  rb : Memory
  /-- `WPTR`, the producer's write cursor (R23). -/
  wptr : Cursor
  /-- `RPTR`, the read cursor (R24). -/
  rptr : Cursor
  /-- `W_SNAP`, the write cursor the last POLL sampled (R26). -/
  wSnap : Cursor
  /-- `ENC`, the encryption mode (R27). -/
  enc : Bool
  /-- `RESULT` (R28). -/
  result : PollResult
  /-- `CMD_ID`, the latched command id (R29). -/
  cmdId : U16
  /-- `FSIZE`, the latched frame size (R29). -/
  fsize : U16
  /-- `SEL`, the handler select (R29, R181). -/
  sel : BitVec 4
  /-- `BUSY`: a dispatched command is outstanding (R30). -/
  busy : Bool
  /-- `BADOP`, sticky (R31). -/
  badop : Bool
  /-- `SEQERR`, sticky (R31). -/
  seqerr : Bool
  /-- `TX`, every byte handed to the transport, in order (R32). -/
  tx : List Byte
  /-- The model faults recorded since the start of the run, in order (R11, R300; log entry 2). No rule of the block reads it. -/
  faults : List Fault
  /-- MODEL: what the host interface returned to the last host read (R51, R234; log entry 6). No rule of the block reads it. -/
  rdata : Word
  /-- MODEL: how many free values have been drawn (log entry 7). -/
  draws : Nat
  /-- MODEL: the agents' steps still to come, in one interleaving (R86, R303; log entry 3). -/
  script : List Request
  deriving DecidableEq, Repr

/-- The state just after RESET at the start of a run (R42, R341): nothing pushed, `TX` empty, no fault recorded. `rdata`, `draws` and
`script` are the model's own (DESIGN CHOICE, log entries 3, 6, 7). -/
def State.reset : State where
  ring := []
  fs := []
  rb := []
  wptr := 0
  rptr := 0
  wSnap := 0
  enc := true
  result := .idle
  cmdId := 0
  fsize := 0
  sel := 0
  busy := false
  badop := false
  seqerr := false
  tx := []
  faults := []
  rdata := 0
  draws := 0
  script := []

end Sys2Proof.Machine
end

