-- ==== Sys2Proof/Machine/Flags.lean ====
section
/-! DEFINITION. Outcome codes, the sticky bit of each fault, and the host's views of the state: STATUS, CURSOR, FRAME and DISPATCH
(R28, R300, R35 to R37, R234). -/

namespace Sys2Proof.Machine

/-- The 3-bit code of an outcome (R28). -/
def PollResult.code : PollResult → BitVec 3
  | .idle => 0
  | .frameOk => 1
  | .noData => 2
  | .noMarker => 3
  | .incomplete => 4
  | .sizeOverflow => 5
  | .badFooter => 6
  | .crcMismatch => 7

/-- The faults that set `BADOP` (R300's table). -/
def Fault.setsBadop : Fault → Bool
  | .badopCtrl => true
  | .replyTooLong => true
  | .seqPollWhileBusy => false
  | .seqCompleteWhileIdle => false
  | .badopAccess => true
  | .unwrittenRead => false
  | .overrun => false

/-- The faults that set `SEQERR` (R300's table). -/
def Fault.setsSeqerr : Fault → Bool
  | .badopCtrl => false
  | .replyTooLong => false
  | .seqPollWhileBusy => true
  | .seqCompleteWhileIdle => true
  | .badopAccess => false
  | .unwrittenRead => false
  | .overrun => false

/-- `PENDING` = `(WPTR - RPTR) mod C` (R36, R40). -/
def pending (s : State) : BitVec 8 := s.wptr - s.rptr

/-- The value of STATUS: reserved, SEQERR, BADOP, BUSY, ENC, RESULT, from bit 31 down (R35, R234). -/
def statusWord (s : State) : Word :=
  0#25 ++ (BitVec.ofBool s.seqerr ++ (BitVec.ofBool s.badop ++ (BitVec.ofBool s.busy ++ (BitVec.ofBool s.enc ++ s.result.code))))

/-- The value of CURSOR: PENDING, WPTR, W_SNAP, RPTR, from bit 31 down (R36, R234). -/
def cursorWord (s : State) : Word := pending s ++ (s.wptr ++ (s.wSnap ++ s.rptr))

/-- The value of FRAME: FSIZE above CMD_ID (R37, R234). -/
def frameWord (s : State) : Word := s.fsize ++ s.cmdId

/-- The value of DISPATCH: SEL in bits [3:0] (R37, R234). -/
def dispatchWord (s : State) : Word := 0#28 ++ s.sel

end Sys2Proof.Machine
end

