-- ==== Sys2Proof/Machine/Ops.lean ====
section
/-! DEFINITION. The named operations over the three memories, and raising a model fault (R11, R300, R304). There is no return from a fault
(R305): only RESET clears the sticky bits. -/

namespace Sys2Proof.Machine

/-- The byte at an address; `none` for one nothing has written (R20, R21, R22). -/
def Memory.read : Memory → Nat → Option Byte
  | [], _ => none
  | (k, b) :: m, a => if k = a then some b else Memory.read m a

/-- Replace the byte at an address, keeping the entries by rising address. -/
def Memory.write : Memory → Nat → Byte → Memory
  | [], a, b => [(a, b)]
  | (k, c) :: m, a, b =>
    if a < k then (a, b) :: (k, c) :: m
    else if a = k then (a, b) :: m
    else (k, c) :: Memory.write m a b

/-- The bytes at a list of addresses, if every one has been written. -/
def Memory.readAll (m : Memory) : List Nat → Option (List Byte)
  | [] => some []
  | a :: as =>
    match Memory.read m a with
    | none => none
    | some b =>
      match Memory.readAll m as with
      | none => none
      | some bs => some (b :: bs)

/-- Write cells from the first on. -/
def Memory.writeAll : Memory → List Host.Cell → Memory
  | m, [] => m
  | m, (a, b) :: cs => Memory.writeAll (Memory.write m a b) cs

/-- The canonical form: addresses strictly rising and below the bound. No entry can equal what an unlisted address reads as, since an
unlisted address holds no value. -/
def Memory.wf (bound : Nat) : Memory → Bool
  | [] => true
  | [(a, _)] => decide (a < bound)
  | (a, _) :: (k, c) :: m => decide (a < k) && Memory.wf bound ((k, c) :: m)

/-- `RING[(p + k) mod C]` (R53). -/
def ringByte (ring : Memory) (p : Cursor) (k : Nat) : Option Byte := Memory.read ring (ringIndex p k)

/-- `RING[(p + j) mod C] <- 0x00` for `j` in `0 .. n-1` (R112). -/
def zeroFill (ring : Memory) (p : Cursor) (n : Nat) : Memory :=
  Memory.writeAll ring ((ringSpan p n).map fun a => (a, 0x00#8))

/-- Store bytes at the indices 0, 1, 2, … of a window memory (R111, R212). -/
def storeFromZero (m : Memory) (bs : List Byte) : Memory :=
  Memory.writeAll m ((List.range bs.length).zip bs)

/-- `raise Fault(reason)`: the sticky bit R300 gives the reason, and the record (R11); nothing else changes (R304). -/
def raiseFault (reason : Fault) (s : State) : State :=
  { s with
    badop := s.badop || reason.setsBadop
    seqerr := s.seqerr || reason.setsSeqerr
    faults := s.faults ++ [reason] }

/-- Return a value to the host (R51, R234); it has no other effect (R54). -/
def returnWord (v : Word) (s : State) : State := { s with rdata := v }

/-- A byte read in a window (R235): the byte, or `UNWRITTEN_READ`, whose returned value the spec does not define and which is free here
(log entry 7). -/
def windowRead (m : Memory) (i : BitVec 8) (s : State) : State :=
  match Memory.read m i.toNat with
  | some b => returnWord (b.zeroExtend 32) s
  | none =>
    let faulted := raiseFault .unwrittenRead s
    { faulted with rdata := (Config.unwrittenByte s.draws).zeroExtend 32, draws := s.draws + 1 }

end Sys2Proof.Machine
end

