-- ==== Sys2Proof/Machine/Control.lean ====
section
/-! DEFINITION. The command words without data: NOP (R230), COMPLETE (R191), the reserved codes (R231) and the ill-formed words (R236). -/

namespace Sys2Proof.Machine

/-- NOP (R230): `skip`. -/
def execNop (s : State) : Host.Outcome State Fault Refusal := .next s

/-- COMPLETE (R191): clears `BUSY`, or is a sequencing error when no command is outstanding. -/
def execComplete (s : State) : Host.Outcome State Fault Refusal :=
  if s.busy then .next { s with busy := false } else .next (raiseFault .seqCompleteWhileIdle s)

/-- RESERVED_OP, `OP` 0x4 to 0x7 (R231). -/
def execReservedOpLow (s : State) : Host.Outcome State Fault Refusal := .next (raiseFault .badopCtrl s)

/-- RESERVED_OP, `OP` 0x8 to 0xF (R231). -/
def execReservedOpHigh (s : State) : Host.Outcome State Fault Refusal := .next (raiseFault .badopCtrl s)

/-- ILLFORMED_RSV (R236): the operation its `OP` names is not performed. -/
def execIllformedRsv (s : State) : Host.Outcome State Fault Refusal := .next (raiseFault .badopCtrl s)

end Sys2Proof.Machine
end

