-- ==== Sys2Proof/Machine/Events.lean ====
section
/-! DEFINITION. The steps of the other two agents: the producer's PUSH (R232, R233) and the environment's RESET (R240, R340). -/

namespace Sys2Proof.Machine

/-- PUSH b (R232): store at `RING[WPTR]` and advance `WPTR`; with `C - 1` bytes pending it is an overrun and writes nothing (R233). -/
def execPush (b : Byte) (s : State) : Host.Outcome State Fault Refusal :=
  if pendingCount s.rptr s.wptr = Config.ringCapacity - 1 then .next (raiseFault .overrun s)
  else .next { s with ring := Memory.write s.ring s.wptr.toNat b, wptr := s.wptr + 1 }

/-- RESET (R240, R340): every element of R42 at its value. `TX` is the transport's record and stays; so do the fault record, the host's
last value and the steps to come, which are no element of the block (log entries 2, 3, 6, 7). -/
def execReset (s : State) : Host.Outcome State Fault Refusal :=
  .next { State.reset with tx := s.tx, faults := s.faults, rdata := s.rdata, draws := s.draws, script := s.script }

end Sys2Proof.Machine
end

