-- ==== Sys2Proof/Machine/HostAccess.lean ====
section
/-! DEFINITION. The host's register and window accesses (R234, R235) and their ill-formed forms (R237). -/

namespace Sys2Proof.Machine

/-- RD_CTRL: CTRL reads 0 (R34, R234). -/
def execRdCtrl (s : State) : Host.Outcome State Fault Refusal := .next (returnWord 0 s)

/-- RD_STATUS (R35, R234). -/
def execRdStatus (s : State) : Host.Outcome State Fault Refusal := .next (returnWord (statusWord s) s)

/-- RD_CURSOR (R36, R234): the cursors at this step. -/
def execRdCursor (s : State) : Host.Outcome State Fault Refusal := .next (returnWord (cursorWord s) s)

/-- RD_FRAME (R37, R234). -/
def execRdFrame (s : State) : Host.Outcome State Fault Refusal := .next (returnWord (frameWord s) s)

/-- RD_DISPATCH (R37, R234). -/
def execRdDispatch (s : State) : Host.Outcome State Fault Refusal := .next (returnWord (dispatchWord s) s)

/-- RDFS i (R38, R235). -/
def execRdfs (i : BitVec 8) (s : State) : Host.Outcome State Fault Refusal := .next (windowRead s.fs i s)

/-- RDRB i (R38, R235). -/
def execRdrb (i : BitVec 8) (s : State) : Host.Outcome State Fault Refusal := .next (windowRead s.rb i s)

/-- WRB i, v (R38, R235). -/
def execWrb (i : BitVec 8) (v : Byte) (s : State) : Host.Outcome State Fault Refusal :=
  .next { s with rb := Memory.write s.rb i.toNat v }

/-- ILLFORMED_ACCESS (R39, R237): `BADOP`, and a read returns 0. -/
def execIllformedAccess (a : Access) (s : State) : Host.Outcome State Fault Refusal :=
  match a.dir with
  | .read => .next (returnWord 0 (raiseFault .badopAccess s))
  | .write => .next (raiseFault .badopAccess s)

end Sys2Proof.Machine
end

