-- ==== Sys2Proof/Machine/Cipher.lean ====
section
/-! DEFINITION. The XOR stream (de)obfuscator and the mode toggle (41_cipher.md). -/

namespace Sys2Proof.Machine

/-- `KEY[i mod 16]` (R141, R144). -/
def keyByte (i : Nat) : Byte := Config.device.key[i % 16]'(Nat.mod_lt i (by decide))

/-- `Obf(i, b) = b ^ KEY[i mod 16]` (R144). -/
def obf (i : Nat) (b : Byte) : Byte := b ^^^ keyByte i

/-- A region transformed from stream position `i` on, each byte at its own position (R140). -/
def obfFrom (i : Nat) : List Byte → List Byte
  | [] => []
  | b :: bs => obf i b :: obfFrom (i + 1) bs

/-- A region as the mode has it (R143, R212): transformed from position 0 when encrypted, else unchanged. -/
def applyMode (enc : Bool) (bs : List Byte) : List Byte := if enc then obfFrom 0 bs else bs

/-- Set the encryption mode (R142). -/
def setMode (enc : Bool) (s : State) : State := { s with enc := enc }

/-- The mode after a frame with this raw id (R142): `ID_PLAIN` gives plain, `ID_RESYNC` encrypted, any other id leaves it (R84). -/
def toggledMode (raw : U16) (enc : Bool) : Bool :=
  if raw = Config.idPlain then false else if raw = Config.device.idResync then true else enc

/-- TOGGLE_PLAIN (R142): `ENC <- 0`. -/
def execTogglePlain (s : State) : Host.Outcome State Fault Refusal := .next (setMode false s)

/-- TOGGLE_RESYNC (R142): `ENC <- 1`. -/
def execToggleResync (s : State) : Host.Outcome State Fault Refusal := .next (setMode true s)

end Sys2Proof.Machine
end

