-- ==== Sys2Proof/Machine/Integrity.lean ====
section
/-! DEFINITION. The 16-bit CRC validator (42_integrity.md). -/

namespace Sys2Proof.Machine

/-- One shift of the CRC register: bit 15 out, and the polynomial in when it was 1 (R160). -/
def crcShift (crc : U16) : U16 :=
  if crc.msb then (crc <<< 1) ^^^ Config.device.crc.poly else crc <<< 1

/-- The shift, `n` times. -/
def crcShifts : Nat → U16 → U16
  | 0, crc => crc
  | n + 1, crc => crcShifts n (crcShift crc)

/-- One byte: into the upper half, then eight shifts (R160). -/
def crcByte (crc : U16) (b : Byte) : U16 := crcShifts 8 (crc ^^^ ((b.zeroExtend 16) <<< 8))

/-- The CRC register after a byte sequence. -/
def crcFold : U16 → List Byte → U16
  | crc, [] => crc
  | crc, b :: bs => crcFold (crcByte crc b) bs

/-- `CRC16(b[0..m-1])` (R160). -/
def crc16 (bs : List Byte) : U16 := crcFold Config.device.crc.init bs ^^^ Config.device.crc.finalXor

/-- The received CRC of a cleartext region of payload and CRC: `le16(FS[size], FS[size+1])` (R73, R161). -/
def receivedCrc (size : Nat) (region : List Byte) : U16 := le16 (region.getD size 0) (region.getD (size + 1) 0)

/-- Whether the CRC check passes: the CRC of the first `size` bytes against the received one (R161). -/
def crcMatches (size : Nat) (region : List Byte) : Bool := crc16 (region.take size) == receivedCrc size region

end Sys2Proof.Machine
end

