-- ==== Sys2Proof/Machine/Multiplexer.lean ====
section
/-! DEFINITION. The command-frame multiplexer and its latch (43_dispatch.md R180 to R190). Each row's meaning is the latch of R180 with the
row's `SEL`; the handler a command selects is surrounding software (R5), in Handlers.lean. -/

namespace Sys2Proof.Machine

/-- `Mux(id)` (R181). -/
def mux (id : U16) : BitVec 4 :=
  if id = Config.device.ids.versionQuery then 1
  else if id = Config.device.ids.eepromRead then 2
  else if id = Config.device.ids.eepromWrite then 3
  else if id = Config.device.ids.rfTelemetryRead then 4
  else if id = Config.device.ids.batteryTelemetryRead then 5
  else if id = Config.device.ids.challengeResponse then 6
  else if id = Config.device.ids.reconfigure then 7
  else if id = Config.device.ids.reboot then 8
  else 0

/-- The latch (R180) of an id, its select and the frame's size: `BUSY` is set only for a non-zero select. -/
def latch (id : U16) (sel : BitVec 4) (size : U16) (s : State) : State :=
  { s with cmdId := id, fsize := size, sel := sel, busy := s.busy || sel != 0, result := .frameOk }

/-- CMD_VERSION_QUERY (R182). -/
def execCmdVersionQuery (size : U16) (s : State) : Host.Outcome State Fault Refusal :=
  .next (latch Config.device.ids.versionQuery 1 size s)

/-- CMD_EEPROM_READ (R183). -/
def execCmdEepromRead (size : U16) (s : State) : Host.Outcome State Fault Refusal :=
  .next (latch Config.device.ids.eepromRead 2 size s)

/-- CMD_EEPROM_WRITE (R184). -/
def execCmdEepromWrite (size : U16) (s : State) : Host.Outcome State Fault Refusal :=
  .next (latch Config.device.ids.eepromWrite 3 size s)

/-- CMD_RF_TELEMETRY_READ (R185). -/
def execCmdRfTelemetryRead (size : U16) (s : State) : Host.Outcome State Fault Refusal :=
  .next (latch Config.device.ids.rfTelemetryRead 4 size s)

/-- CMD_BATTERY_TELEMETRY_READ (R186). -/
def execCmdBatteryTelemetryRead (size : U16) (s : State) : Host.Outcome State Fault Refusal :=
  .next (latch Config.device.ids.batteryTelemetryRead 5 size s)

/-- CMD_CHALLENGE_RESPONSE (R187). -/
def execCmdChallengeResponse (size : U16) (s : State) : Host.Outcome State Fault Refusal :=
  .next (latch Config.device.ids.challengeResponse 6 size s)

/-- CMD_RECONFIGURE (R188). -/
def execCmdReconfigure (size : U16) (s : State) : Host.Outcome State Fault Refusal :=
  .next (latch Config.device.ids.reconfigure 7 size s)

/-- CMD_REBOOT (R189); the RESET it leads to is the environment's step. -/
def execCmdReboot (size : U16) (s : State) : Host.Outcome State Fault Refusal :=
  .next (latch Config.device.ids.reboot 8 size s)

/-- CMD_UNIMPLEMENTED (R190): latched with `SEL = 0`, `BUSY` unchanged, no handler and no reply. -/
def execCmdUnimplemented (id size : U16) (s : State) : Host.Outcome State Fault Refusal :=
  .next (latch id 0 size s)

end Sys2Proof.Machine
end

