-- ==== Sys2Proof/Machine/Scanner.lean ====
section
/-! DEFINITION. The ring scanner, phase 1 of POLL (40_scanner.md R101 to R114). The scan recurses on the number of bytes pending from its
position, which is `(W - p) mod C` and falls by one with each step forward (R115); reaching 0 is `p = W`. -/

namespace Sys2Proof.Machine

/-- Where a scan for a frame header ends. -/
inductive HeaderScan where
  /-- `p` reached `W` (R103, R104). -/
  | exhausted
  /-- A start-marker byte at `p` with fewer than 8 bytes pending (R105). -/
  | tooShort (p : Cursor)
  /-- Both start markers at `p`, with `avail` bytes pending from `p` (R106). -/
  | header (p : Cursor) (avail : Nat)
  /-- A ring byte the scan had to read was never written (R300). -/
  | unwritten
  deriving DecidableEq, Repr

/-- The scan loop of R100, from `p` with `n` bytes pending: skip to a start marker (R104), check that a smallest frame is pending (R105),
then require the second marker or slide by one byte (R106). -/
def scanHeader (ring : Memory) (p : Cursor) : Nat → HeaderScan
  | 0 => .exhausted
  | n + 1 =>
    match ringByte ring p 0 with
    | none => .unwritten
    | some b =>
      if b ≠ Config.device.markS0 then scanHeader ring (p + 1) n
      else if n + 1 < Config.minFrame then .tooShort p
      else
        match ringByte ring p 1 with
        | none => .unwritten
        | some c => if c = Config.device.markS1 then .header p (n + 1) else scanHeader ring (p + 1) n

/-- What phase 1 of a POLL finds. -/
inductive ScanOutcome where
  /-- An outcome without a frame, and the new `RPTR`. -/
  | stop (result : PollResult) (rptr : Cursor)
  /-- A frame that passed the framing checks: its start-marker index and its size. -/
  | frame (p : Cursor) (size : U16)
  /-- A ring byte that had to be read was never written (R300). -/
  | unwritten
  deriving DecidableEq, Repr

/-- The footer check (R110): the markers at frame offsets `size + 6` and `size + 7`; a mismatch drops everything up to `w`. -/
def checkFooter (ring : Memory) (p w : Cursor) (size : U16) : ScanOutcome :=
  match ringByte ring p (footerOffset size), ringByte ring p (footerOffset size + 1) with
  | some f0, some f1 =>
    if f0 ≠ Config.device.markF0 ∨ f1 ≠ Config.device.markF1 then .stop .badFooter w else .frame p size
  | _, _ => .unwritten

/-- The checks on a size: overflow (R108, exact arithmetic), completeness (R109), footer (R110). -/
def checkSize (ring : Memory) (p w : Cursor) (avail : Nat) (size : U16) : ScanOutcome :=
  if frameLength size > Config.ringCapacity then .stop .sizeOverflow w
  else if avail < frameLength size then .stop .incomplete p
  else checkFooter ring p w size

/-- Read the size of the header at `p` (R107) and check it. -/
def checkFrame (ring : Memory) (p w : Cursor) (avail : Nat) : ScanOutcome :=
  match ringByte ring p 2, ringByte ring p 3 with
  | some lo, some hi => checkSize ring p w avail (le16 lo hi)
  | _, _ => .unwritten

/-- Phase 1 of POLL up to the copy, from the read cursor `p0` with the write cursor sampled as `w` (R101 to R110). -/
def scanFrame (ring : Memory) (p0 w : Cursor) : ScanOutcome :=
  if p0 = w then .stop .noData p0
  else
    match scanHeader ring p0 (pendingCount p0 w) with
    | .exhausted => .stop .noMarker w
    | .tooShort p => .stop .incomplete p
    | .header p avail => checkFrame ring p w avail
    | .unwritten => .unwritten

end Sys2Proof.Machine
end

