-- ==== Sys2Proof/Machine/Poll.lean ====
section
/-! DEFINITION. POLL (R100): scan, copy and zero-fill, mode toggle, deobfuscation, CRC check, latch, in one atomic step. -/

namespace Sys2Proof.Machine

/-- The raw id of a copied region: `le16(FS[0], FS[1])` before deobfuscation (R142); after it, the command id (R72, R180). -/
def regionId (region : List Byte) : U16 := le16 (region.getD 0 0) (region.getD 1 0)

/-- Zero-fill the frame and advance the cursor past it (R112). -/
def consumeFrame (p : Cursor) (size : U16) (s : State) : State :=
  { s with ring := zeroFill s.ring p (frameLength size), rptr := p + BitVec.ofNat 8 (frameLength size) }

/-- The region after the toggle its raw id causes and the deobfuscation in the mode that leaves (R142, R143). -/
def clearedRegion (enc : Bool) (raw : List Byte) : List Byte := applyMode (toggledMode (regionId raw) enc) raw

/-- Phases 2 to 4 on the `size + 2` bytes copied from the ring (R113): the toggle on the raw id (R142), the deobfuscated region in `FS`
(R111, R143), the CRC check (R161), and the latch (R180). DEDUCED (log entry 22, unsafe): a CRC mismatch leaves the new frame in `FS` (R162,
R347), although R191's corner has `FS` keep its value after COMPLETE until the next `FRAME_OK`. -/
def interpretFrame (size : U16) (raw : List Byte) (s : State) : State :=
  let stored : State :=
    { s with enc := toggledMode (regionId raw) s.enc, fs := storeFromZero s.fs (clearedRegion s.enc raw) }
  if crcMatches size.toNat (clearedRegion s.enc raw) then
    latch (regionId (clearedRegion s.enc raw)) (mux (regionId (clearedRegion s.enc raw))) size stored
  else { stored with result := .crcMismatch }

/-- A POLL that is not refused as busy (R101 to R113). A read of an unwritten ring byte faults before anything is written (R302). -/
def pollIdle (s : State) : State :=
  match scanFrame s.ring s.rptr s.wptr with
  | .stop r p => { s with wSnap := s.wptr, rptr := p, result := r }
  | .unwritten => raiseFault .unwrittenRead s
  | .frame p size =>
    match Memory.readAll s.ring (ringSpan (p + BitVec.ofNat 8 Config.headerLength) (size.toNat + 2)) with
    | none => raiseFault .unwrittenRead s
    | some raw => interpretFrame size raw (consumeFrame p size { s with wSnap := s.wptr })

/-- POLL (R100, R102). -/
def execPoll (s : State) : Host.Outcome State Fault Refusal :=
  if s.busy then .next (raiseFault .seqPollWhileBusy s) else .next (pollIdle s)

end Sys2Proof.Machine
end

