-- ==== Sys2Proof/Machine/Reply.lean ====
section
/-! DEFINITION. The reply framer (44_reply.md). -/

namespace Sys2Proof.Machine

/-- The two footer bytes (R213): the pad obfuscated at positions `n` and `n + 1` when encrypted, else the pad itself. -/
def replyFooter (enc : Bool) (n : Nat) : List Byte :=
  if enc then [obf n Config.device.replyPad, obf (n + 1) Config.device.replyPad]
  else [Config.device.replyPad, Config.device.replyPad]

/-- The reply on the wire (R77, R211): header marker, size, payload as sent, footer, footer marker. No CRC (R214). -/
def replyFrame (enc : Bool) (n : U16) (sent : List Byte) : List Byte :=
  bytesOf Config.device.replyMark ++ (bytesOf n ++ (sent ++ (replyFooter enc n.toNat ++ bytesOf Config.device.replyFooterMark)))

/-- A reply of the payload read from `RB` (R210): sent as the mode has it, left so in `RB` when encrypted (R212), appended to `TX`. -/
def sendReply (n : U16) (payload : List Byte) (s : State) : State :=
  { s with
    rb := if s.enc then storeFromZero s.rb (applyMode s.enc payload) else s.rb
    tx := s.tx ++ replyFrame s.enc n (applyMode s.enc payload) }

/-- REPLY (R210): the length check, then the unwritten-byte check, both before anything is emitted. -/
def execReply (n : U16) (s : State) : Host.Outcome State Fault Refusal :=
  if n.toNat > Config.replyCapacity then .next (raiseFault .replyTooLong s)
  else
    match Memory.readAll s.rb (List.range n.toNat) with
    | none => .next (raiseFault .unwrittenRead s)
    | some payload => .next (sendReply n payload s)

end Sys2Proof.Machine
end

