-- ==== Sys2Proof/Machine/Dispatch.lean ====
section
/-! DEFINITION. One arm per row of opcode_table.json, each a call of that row's meaning. -/

namespace Sys2Proof.Machine

def exec (i : Instr) (s : State) : Host.Outcome State Fault Refusal :=
  match i with
  | .nop => Sys2Proof.Machine.execNop s
  | .poll => Sys2Proof.Machine.execPoll s
  | .reply n => Sys2Proof.Machine.execReply n s
  | .complete => Sys2Proof.Machine.execComplete s
  | .reservedOpLow _ => Sys2Proof.Machine.execReservedOpLow s
  | .reservedOpHigh _ => Sys2Proof.Machine.execReservedOpHigh s
  | .illformedRsv _ => Sys2Proof.Machine.execIllformedRsv s
  | .cmdVersionQuery size => Sys2Proof.Machine.execCmdVersionQuery size s
  | .cmdEepromRead size => Sys2Proof.Machine.execCmdEepromRead size s
  | .cmdEepromWrite size => Sys2Proof.Machine.execCmdEepromWrite size s
  | .cmdRfTelemetryRead size => Sys2Proof.Machine.execCmdRfTelemetryRead size s
  | .cmdBatteryTelemetryRead size => Sys2Proof.Machine.execCmdBatteryTelemetryRead size s
  | .cmdChallengeResponse size => Sys2Proof.Machine.execCmdChallengeResponse size s
  | .cmdReconfigure size => Sys2Proof.Machine.execCmdReconfigure size s
  | .cmdReboot size => Sys2Proof.Machine.execCmdReboot size s
  | .cmdUnimplemented id size => Sys2Proof.Machine.execCmdUnimplemented id size s
  | .togglePlain => Sys2Proof.Machine.execTogglePlain s
  | .toggleResync => Sys2Proof.Machine.execToggleResync s
  | .rdCtrl => Sys2Proof.Machine.execRdCtrl s
  | .rdStatus => Sys2Proof.Machine.execRdStatus s
  | .rdCursor => Sys2Proof.Machine.execRdCursor s
  | .rdFrame => Sys2Proof.Machine.execRdFrame s
  | .rdDispatch => Sys2Proof.Machine.execRdDispatch s
  | .rdfs j => Sys2Proof.Machine.execRdfs j s
  | .rdrb j => Sys2Proof.Machine.execRdrb j s
  | .wrb j v => Sys2Proof.Machine.execWrb j v s
  | .illformedAccess a => Sys2Proof.Machine.execIllformedAccess a s
  | .push b => Sys2Proof.Machine.execPush b s
  | .reset => Sys2Proof.Machine.execReset s

end Sys2Proof.Machine
end

