-- ==== Sys2Proof/Machine/Step.lean ====
section
/-! DEFINITION. One step of the machine: the next request of the script, decoded and run. -/

namespace Sys2Proof.Machine

/-- The state with its script replaced. -/
def State.withScript (s : State) (script : List Request) : State := { s with script := script }

/-- One atomic step (R6, R86): the script's first request leaves the script and is performed. With an empty script no agent moves and
nothing changes (R354). A raw id that toggles nothing has no effect (R84). -/
def step (s : State) : Host.Outcome State Fault Refusal :=
  match s.script with
  | [] => .next s
  | r :: rest =>
    match decode r with
    | .ok i => exec i (s.withScript rest)
    | .error .rawIdTogglesNothing => .next (s.withScript rest)
    | .error .frameNeverExtracted => .refused .frameNeverExtracted

/-- The state with the request of an opcode-table word as its next step (log entry 16). -/
def State.withFetchWord (s : State) (nbits w : Nat) : State := s.withScript (tableRequest nbits w :: s.script)

end Sys2Proof.Machine
end

