-- ==== Sys2Proof/Machine/Sender.lean ====
section
/-! DEFINITION. The inbound wire format as a sender builds it (R70, R73, R74, and R85's `FRAME`). Statements use it; no definition of the
block does. -/

namespace Sys2Proof.Machine

/-- Payload, then its CRC, low byte first (R70, R73): the cleartext of the region the cipher covers. -/
def clearRegion (payload : List Byte) : List Byte := payload ++ bytesOf (crc16 payload)

/-- `FRAME e, [payload]` (R85): markers, size, the region obfuscated as one stream when `enc` (R74), footer markers. -/
def inboundFrame (enc : Bool) (payload : List Byte) : List Byte :=
  [Config.device.markS0, Config.device.markS1] ++ (bytesOf (BitVec.ofNat 16 payload.length) ++
    (applyMode enc (clearRegion payload) ++ [Config.device.markF0, Config.device.markF1]))

end Sys2Proof.Machine
end

