-- ==== Sys2Proof/Machine/Handlers.lean ====
section
/-! DEFINITION. The handler environment contract (46_handler_env.md), outside the block (R5, R41, R260): what the surrounding software does
with a dispatched command, as a function from the block's outputs and an environment state of its own to the host steps it issues. No
definition of the block uses this file. Layouts, keys and draws the source does not give are constants without a body (log entry 14); what the
spec leaves open of the environment's own behaviour is named in log entries 15, 20, 21 and 23. -/

namespace Sys2Proof.Machine

/-- The environment's state (R41, R261, R270, R275, R278). `draws` counts the draws taken from the environment. -/
structure Env where
  locked : Bool
  attempts : Nat
  challenge : Config.Block
  hasCustomKey : Bool
  /-- The EEPROM bytes written so far; the others are `Config.eepromContents`. -/
  eeprom : Memory
  killed : Bool
  passwordLock : Bool
  /-- The configuration-session counter; 0 is not armed or expired. -/
  session : Nat
  timestamp : Word
  radio : List Byte
  draws : Nat
  deriving DecidableEq, Repr

/-- The environment at power-on (R261). DESIGN CHOICE (log entry 15, unsafe): `hasCustomKey` and `passwordLock`, which the environment passes
in (R261, R270), are fixed here, and no step changes them; the spec does not say whether they can change between commands (N7). -/
def Env.initial : Env where
  locked := true
  attempts := Config.initAttempts
  challenge := Config.challengeDraw 0
  hasCustomKey := Config.customKeyPresent
  eeprom := []
  killed := Config.killedInitially
  passwordLock := Config.passwordLockActive
  session := 0
  timestamp := Config.timestampDraw 0
  radio := Config.radioInitial
  draws := 1

/-- A byte of the EEPROM (R270). -/
def Env.eepromByte (e : Env) (a : Nat) : Byte := (Memory.read e.eeprom a).getD (Config.eepromContents a)

/-- (Re)issue a challenge: a fresh draw, `locked` and `attempts` unchanged (R262, R263). -/
def issueChallenge (e : Env) : Env := { e with challenge := Config.challengeDraw e.draws, draws := e.draws + 1 }

/-- Arm or reload the configuration-session counter (R262, R278). -/
def armSession (e : Env) : Env := { e with session := Config.sessionTicks }

/-- One tick of the external periodic collaborator (R278); expiry has no effect on the block (D35). DESIGN CHOICE (log entry 15, unsafe): a
tick at counter 0, not armed or expired, leaves 0; the spec is silent there. -/
def sessionTick (e : Env) : Env := { e with session := e.session - 1 }

/-- Whether a response is the challenge encrypted under a key with IV 0 (R264). -/
def responseMatches (key : Config.Block) (e : Env) (response : Config.Block) : Bool :=
  Config.encryptBlock key Config.Block.zero e.challenge == response

/-- Whether either key accepts a response: the custom key if present, then the default key (R264, R265). -/
def responseAccepted (e : Env) (response : Config.Block) : Bool :=
  (e.hasCustomKey && responseMatches Config.customKey e response) || responseMatches Config.defaultKey e response

/-- The authentication state machine on one response (R264 to R267). -/
def authenticate (response : Config.Block) (e : Env) : Env :=
  if e.attempts = Config.maxAttempts then e
  else if responseAccepted e response then { e with locked := false, attempts := 0 }
  else if e.attempts + 1 ≥ Config.maxAttempts then { e with locked := true, attempts := Config.maxAttempts }
  else { e with attempts := e.attempts + 1 }

/-- The clamp of eeprom-read (R271), exact. -/
def clampRead (offset size : Nat) : Nat :=
  if offset ≥ Config.eepromSize then 0 else min size (min Config.readMax (Config.eepromSize - offset))

/-- The clamp of eeprom-write (R272). -/
def clampWrite (offset size : Nat) : Nat :=
  if offset ≥ Config.eepromSize then 0 else min size (Config.eepromSize - offset)

/-- Whether the chunk at `a` meets a byte range (R272). -/
def chunkMeets (a : Nat) (range : Nat × Nat) : Bool :=
  decide (a < range.2) && decide (range.1 < a + Config.writeChunk) && decide (range.1 < range.2)

/-- One 8-byte chunk of an eeprom-write, with its gates (R272). -/
def writeEepromChunk (offset : Nat) (data : Nat → Byte) (allow : Bool) (e : Env) (k : Nat) : Env :=
  let a := offset + k * Config.writeChunk
  if chunkMeets a Config.keyRange && e.locked then e
  else if chunkMeets a Config.passwordRange && e.passwordLock && !allow then e
  else
    { e with
      eeprom := Memory.writeAll e.eeprom ((List.range Config.writeChunk).map fun j => (a + j, data (k * Config.writeChunk + j)))
      killed := e.killed && !chunkMeets a (Config.killedFlagAddr, Config.killedFlagAddr + 1) }

/-- An eeprom-write: nothing while locked (R269), else its whole chunks in order, the final partial one skipped (R272). -/
def writeEeprom (offset size : Nat) (data : Nat → Byte) (allow : Bool) (e : Env) : Env :=
  if e.locked then e
  else (List.range (clampWrite offset size / Config.writeChunk)).foldl (writeEepromChunk offset data allow) e

/-- `SETRB`: the window writes that put a payload into `RB` (R85). DESIGN CHOICE (log entry 20, unsafe): of a payload longer than `RB_CAP` the
byte at `i` goes to index `i mod 256`; the spec is silent there. -/
def setReplyBytes (payload : List Byte) : List Request :=
  ((List.range payload.length).zip payload).map fun c => encode (.wrb (BitVec.ofNat 8 c.1) c.2)

/-- A reply payload: the reply's inner header `{ id, size }`, then the body (R79, R279). DESIGN CHOICE (log entry 20, unsafe): `size` is the
length of the body behind the 4-byte header, mod 65536; R79 and R279 name the field and no rule says what it counts (N5). -/
def replyPayload (id : U16) (body : List Byte) : List Byte :=
  bytesOf id ++ (bytesOf (BitVec.ofNat 16 body.length) ++ body)

/-- The host steps of one reply: fill `RB`, then REPLY with the payload's length (R79, R85). DESIGN CHOICE (log entry 20, unsafe): a payload
longer than `RB_CAP` is sent all the same, with its length mod 65536; the spec is silent there, and R210 refuses a length above 256. -/
def replySteps (id : U16) (body : List Byte) : List Request :=
  setReplyBytes (replyPayload id body) ++ [encode (.reply (BitVec.ofNat 16 (replyPayload id body).length))]

/-- The step that ends a handler (R191, R260). -/
def completeStep : List Request := [encode .complete]

/-- The version reply, with the challenge just issued (R262, R275). -/
def versionReply (e : Env) : List Request :=
  replySteps Config.replyIds.version (Config.versionBody Config.versionString e.hasCustomKey e.passwordLock e.challenge)

/-- version-query (R262). -/
def handleVersionQuery (_frame : List Byte) (e : Env) : Env × List Request :=
  let e' := issueChallenge (armSession { e with timestamp := Config.timestampDraw e.draws, draws := e.draws + 1 })
  (e', versionReply e' ++ completeStep)

/-- eeprom-read (R271). -/
def handleEepromRead (frame : List Byte) (e : Env) : Env × List Request :=
  let offset := (Config.readRequest frame).1
  let n := clampRead offset.toNat (Config.readRequest frame).2.toNat
  if n = 0 then (e, completeStep)
  else
    let data := (List.range n).map fun k => e.eepromByte (offset.toNat + k)
    (e, replySteps Config.replyIds.eepromRead (Config.readBody offset n data) ++ completeStep)

/-- eeprom-write (R184, R272). DESIGN CHOICE (log entry 21, unsafe): an inner size that claims more data than the payload holds is taken as it
stands, and the data bytes beyond the payload are free, never the stale bytes of `FS`. -/
def handleEepromWrite (frame : List Byte) (e : Env) : Env × List Request :=
  let offset := (Config.writeRequest frame).1
  let e' := writeEeprom offset.toNat (Config.writeRequest frame).2.toNat (Config.writeData frame) (Config.allowPassword frame) e
  (e', replySteps Config.replyIds.eepromWrite (Config.writeBody offset) ++ completeStep)

/-- rf-telemetry-read (R273). -/
def handleRfTelemetryRead (_frame : List Byte) (e : Env) : Env × List Request :=
  ({ e with draws := e.draws + 1 },
    replySteps Config.replyIds.rfTelemetry (Config.telemetryBody (Config.telemetryDraw e.draws)) ++ completeStep)

/-- battery-telemetry-read (R274). -/
def handleBatteryTelemetryRead (_frame : List Byte) (e : Env) : Env × List Request :=
  ({ e with draws := e.draws + 1 }, replySteps Config.replyIds.battery (Config.batteryBody (Config.batteryDraw e.draws)) ++ completeStep)

/-- challenge-response (R264, R268): the reply reports the updated flag. -/
def handleChallengeResponse (frame : List Byte) (e : Env) : Env × List Request :=
  let e' := authenticate (Config.responseBlock frame) e
  (e', replySteps Config.replyIds.challengeResponse (Config.lockBody e'.locked) ++ completeStep)

/-- reconfigure (R275): the field reset is gated by the lock, the re-issue is not, and the reply follows `RECONF_LOCKED_REPLIES`. -/
def handleReconfigure (_frame : List Byte) (e : Env) : Env × List Request :=
  let e' := issueChallenge (if e.locked then e else { e with radio := Config.radioDefaults })
  (e', (if e.locked && !Config.reconfLockedReplies then [] else versionReply e') ++ completeStep)

/-- reboot (R189, R276): the system reset resets the block and the authentication state; no reply and no COMPLETE. DESIGN CHOICE (log entry
15, unsafe): the rest of the environment survives, the session counter (just reloaded by the reboot frame) and the captured timestamp among
it; the spec names only the authentication state. -/
def handleReboot (_frame : List Byte) (e : Env) : Env × List Request :=
  (issueChallenge { e with locked := true, attempts := Config.initAttempts }, [encode .reset])

/-- The frame a handler is given: `FS[0 .. FSIZE+1]` (R193, R239). DESIGN CHOICE (log entry 21, unsafe): the stale bytes behind it (R21, R184)
reach no handler, an eeprom-write whose inner size claims more than the payload holds included. Where one of those bytes is unwritten, as no
dispatch leaves it (R193), there is no frame: `[]`. -/
def dispatchedFrame (s : State) : List Byte := (Memory.readAll s.fs (List.range (s.fsize.toNat + 2))).getD []

/-- The handler a select value names (R262 to R276). -/
def runHandler (sel : BitVec 4) (frame : List Byte) (e : Env) : Env × List Request :=
  if sel = 1 then handleVersionQuery frame e
  else if sel = 2 then handleEepromRead frame e
  else if sel = 3 then handleEepromWrite frame e
  else if sel = 4 then handleRfTelemetryRead frame e
  else if sel = 5 then handleBatteryTelemetryRead frame e
  else if sel = 6 then handleChallengeResponse frame e
  else if sel = 7 then handleReconfigure frame e
  else if sel = 8 then handleReboot frame e
  else (e, [])

/-- The condition of R239's loop on the STATUS it has read: `RESULT = FRAME_OK` and `BUSY = 1`. Only between a `FRAME_OK` POLL that selected
a handler and its COMPLETE does one run (R260). -/
def commandDue (s : State) : Bool := s.result == .frameOk && s.busy

/-- What the environment does after a POLL: with a command due and a select it reloads the session counter (R278, D35) and runs the handler;
otherwise nothing, so not for an unimplemented id (R277) and not for a select left over from an earlier command. -/
def handle (s : State) (e : Env) : Env × List Request :=
  if commandDue s && s.sel != 0 then runHandler s.sel (dispatchedFrame s) (armSession e) else (e, [])

/-- What the host reads of a dispatched command: `CMD_ID` and `FSIZE`, `SEL`, and `FS[0 .. FSIZE+1]` (R239), in this order (DESIGN CHOICE, log
entry 23). -/
def dispatchReads (s : State) : List Request :=
  encode .rdFrame :: encode .rdDispatch :: (List.range (s.fsize.toNat + 2)).map fun i => encode (.rdfs (BitVec.ofNat 8 i))

/-- The body of R239's condition: the reads and the handler's steps become the host's next ones. Once for each `FRAME_OK` POLL (R260). DESIGN
CHOICE (log entry 23, unsafe): all of them go ahead of every step already in `script`, and the handler's own state changes at once. -/
def serve (s : State) (e : Env) : Env × State :=
  if commandDue s then ((handle s e).1, { s with script := dispatchReads s ++ (handle s e).2 ++ s.script }) else (e, s)

/-- One turn of R239's loop: POLL, RD STATUS, and the handler where the STATUS says that a command is due. A host that follows the loop is at
its top only with `BUSY = 0`; where it is not, the POLL selects nothing (R102), so no handler runs (R260). DESIGN CHOICE (log entry 23, unsafe):
this is ONE interleaving of the turn, in which no other agent's step falls inside it; R303 admits every one, and those are runs of `step` over
scripts that hold the turn's steps merged with the other agents'. -/
def hostTurn (s : State) (e : Env) : Env × Host.Outcome State Fault Refusal :=
  match exec .poll s with
  | .next t =>
    match exec .rdStatus t with
    | .next u => if s.busy then (e, .next u) else ((serve u e).1, .next (serve u e).2)
    | .fault reason => (e, .fault reason)
    | .refused reason => (e, .refused reason)
  | .fault reason => (e, .fault reason)
  | .refused reason => (e, .refused reason)

end Sys2Proof.Machine
end

