-- ==== Sys2Proof/Safety.lean ====
section
/-! DEFINITION. What counts as a safe run (no recorded fault, R300, R304), the invariants of the state, and the conditions of R301's rows
in the words of the ring. -/

namespace Sys2Proof.Machine

/-- A state in which a fault has been recorded: never final (R11, R304). -/
def State.faulted (s : State) : Bool := !s.faults.isEmpty

/-- R304's reading for a model: the machine's step, ended with its reason where it records a fault (log entry 1). -/
def modelStep (s : State) : Host.Outcome State Fault Refusal :=
  match step s with
  | .next t =>
    match t.faults.drop s.faults.length with
    | [] => .next t
    | reason :: _ => .fault reason
  | .fault reason => .fault reason
  | .refused reason => .refused reason

/-- The machine in which a faulted state is terminal (R304). -/
def modelCore : Host.Core := { State := State, Fault := Fault, Refusal := Refusal, step := modelStep, reset := State.reset }

/-- Every step to come is one of R86's three agents'. -/
def agentScript (s : State) : Prop := s.script.all Request.fromAgent = true

/-- The three memories are in canonical form within their index spaces (R55). -/
def memoriesCanonical (s : State) : Prop :=
  Memory.wf Config.ringCapacity s.ring = true ∧ Memory.wf Config.frameCapacity s.fs = true ∧
    Memory.wf Config.replyCapacity s.rb = true

/-- The ring byte `k` places after the read cursor. -/
def pendingByte (s : State) (k : Nat) : Option Byte := ringByte s.ring s.rptr k

/-- How many bytes are pending (R36). -/
def pendingLength (s : State) : Nat := pendingCount s.rptr s.wptr

/-- Every pending byte is one the producer has written since reset (R20, R59, R341). -/
def pendingWritten (s : State) : Prop := ∀ k, k < pendingLength s → pendingByte s k ≠ none

/-- The latched outputs agree (R29, R75, R180, R181). -/
def latchCoherent (s : State) : Prop :=
  s.sel = mux s.cmdId ∧ (s.busy = true → s.sel ≠ 0) ∧ s.fsize.toNat ≤ Config.maxExtracted

/-- While a command is outstanding, `FS[0 .. FSIZE+1]` holds its deobfuscated payload and CRC (R193). -/
def frameHeld (s : State) : Prop :=
  s.busy = true → ∃ region, Memory.readAll s.fs (List.range (s.fsize.toNat + 2)) = some region ∧
    regionId region = s.cmdId ∧ crcMatches s.fsize.toNat region = true

/-- A sticky bit is set only where a fault that sets it is on record (R31, R300). -/
def stickyRecorded (s : State) : Prop :=
  (s.badop = true → ∃ f ∈ s.faults, f.setsBadop = true) ∧ (s.seqerr = true → ∃ f ∈ s.faults, f.setsSeqerr = true)

/-- R301 row 2's index: a start-marker byte with fewer than 8 bytes pending from it, or followed by the second marker. -/
def candidate (s : State) (k : Nat) : Prop :=
  k < pendingLength s ∧ pendingByte s k = some Config.device.markS0 ∧
    (pendingLength s - k < 8 ∨ pendingByte s (k + 1) = some Config.device.markS1)

/-- The first such index (R301 rows 3 to 8). -/
def firstCandidate (s : State) (k : Nat) : Prop := candidate s k ∧ ∀ j, j < k → ¬candidate s j

/-- The header `k` places after the read cursor carries `size` (R107). -/
def sizeAt (s : State) (k : Nat) (size : U16) : Prop :=
  ∃ lo hi, pendingByte s (k + 2) = some lo ∧ pendingByte s (k + 3) = some hi ∧ size = le16 lo hi

/-- The footer markers stand where a frame of `size` bytes at `k` has them (R110). -/
def footerAt (s : State) (k : Nat) (size : U16) : Prop :=
  pendingByte s (k + size.toNat + 6) = some Config.device.markF0 ∧ pendingByte s (k + size.toNat + 7) = some Config.device.markF1

/-- The first candidate, at `k`, is a complete frame of `size` payload bytes with its footer (R301 rows 7 and 8), whose payload and CRC
stand in the ring as `raw`. -/
def framePending (s : State) (k : Nat) (size : U16) (raw : List Byte) : Prop :=
  firstCandidate s k ∧ 8 ≤ pendingLength s - k ∧ sizeAt s k size ∧ size.toNat + 8 ≤ Config.ringCapacity ∧
    size.toNat + 8 ≤ pendingLength s - k ∧ footerAt s k size ∧ raw.length = size.toNat + 2 ∧
    ∀ i, i < raw.length → pendingByte s (k + 4 + i) = raw[i]?

/-- The first bytes pending, in order, are `bytes`. -/
def pendingStartsWith (s : State) (bytes : List Byte) : Prop :=
  bytes.length ≤ pendingLength s ∧ ∀ i, i < bytes.length → pendingByte s i = bytes[i]?

/-- Two states whose pending bytes are the same sequence, wherever they lie in the ring (R114). -/
def samePending (s t : State) : Prop :=
  pendingLength s = pendingLength t ∧ ∀ k, k < pendingLength s → pendingByte s k = pendingByte t k

end Sys2Proof.Machine
end

