-- ==== Sys2Proof/Certificates/Slice0/Obligations.lean ====
section
/-! DEFINITION. The statements for the provers. -/

open Sys2Proof Sys2Proof.Machine

/-! ### Encoding and stepping -/

/-- Every well-formed instruction is read back from its request (30_encoding.md R80 to R85, R181, R142). -/
def Obligations.DecodeOfEncodeIsTheInstruction : Prop :=
  ∀ i : Instr, i.wf = true → decode (encode i) = .ok i

/-- The other direction: what decodes is well-formed and encodes to the request, but for bits the block does not read. -/
def Obligations.EncodeOfDecodeIsTheRequest : Prop :=
  ∀ (r : Request) (i : Instr), decode r = .ok i → i.wf = true ∧ encode i = r.canonical

/-- R81's table, bit by bit, over all command words. -/
def Obligations.CommandWordsDecodeByTheTable : Prop :=
  ∀ v : Word,
    (decodeCtrl v = .nop ↔ v = 0x00000000#32) ∧
    (decodeCtrl v = .poll ↔ v = 0x00000001#32) ∧
    (∀ n : U16, decodeCtrl v = .reply n ↔ v.extractLsb' 0 16 = 0x0002#16 ∧ n = v.extractLsb' 16 16) ∧
    (decodeCtrl v = .complete ↔ v = 0x00000003#32) ∧
    (decodeCtrl v = .reservedOpLow v ∨ decodeCtrl v = .reservedOpHigh v ↔ 4 ≤ (v.extractLsb' 0 4).toNat) ∧
    (decodeCtrl v = .illformedRsv v ↔
      (v.extractLsb' 0 4).toNat < 4 ∧
        (v.extractLsb' 4 12 ≠ 0 ∨ (v.extractLsb' 0 4 ≠ 2 ∧ v.extractLsb' 16 16 ≠ 0)))

/-- Exactly the accesses outside R34's map and R52's widths are ill-formed (R39, R52, R237), and each access of the map is the register's or
the window byte's that stands at its offset (R34). -/
def Obligations.AccessesOutsideTheMapAreIllFormed : Prop :=
  (∀ a : Access, decodeAccess a = .illformedAccess a ↔
    ¬((a.dir = .read ∧ a.bytes = 4 ∧ (a.offset = 0 ∨ a.offset = 4 ∨ a.offset = 8 ∨ a.offset = 12 ∨ a.offset = 16)) ∨
      (a.dir = .write ∧ a.bytes = 4 ∧ a.offset = 0) ∨
      (a.dir = .read ∧ a.bytes = 1 ∧ 0x100 ≤ a.offset ∧ a.offset < 0x300) ∨
      (a.dir = .write ∧ a.bytes = 1 ∧ 0x200 ≤ a.offset ∧ a.offset < 0x300))) ∧
  (∀ data : Word,
    decodeAccess ⟨.read, 4, 0x000, data⟩ = .rdCtrl ∧ decodeAccess ⟨.read, 4, 0x004, data⟩ = .rdStatus ∧
      decodeAccess ⟨.read, 4, 0x008, data⟩ = .rdCursor ∧ decodeAccess ⟨.read, 4, 0x00C, data⟩ = .rdFrame ∧
      decodeAccess ⟨.read, 4, 0x010, data⟩ = .rdDispatch ∧ decodeAccess ⟨.write, 4, 0x000, data⟩ = decodeCtrl data) ∧
  ∀ (i : BitVec 8) (data : Word),
    decodeAccess ⟨.read, 1, 0x100 + i.toNat, data⟩ = .rdfs i ∧ decodeAccess ⟨.read, 1, 0x200 + i.toNat, data⟩ = .rdrb i ∧
      decodeAccess ⟨.write, 1, 0x200 + i.toNat, data⟩ = .wrb i (data.extractLsb' 0 8)

/-- A few words written out from the spec decode to what they stand for (R81, R85, R87, R181, R142). -/
def Obligations.WordsOfTheSpecDecode : Prop :=
  decode (.host ⟨.write, 4, 0x000, 0x00080002#32⟩) = .ok (.reply 8) ∧
  decode (.host ⟨.write, 4, 0x000, 0x00000012#32⟩) = .ok (.illformedRsv 0x00000012#32) ∧
  decode (.host ⟨.read, 4, 0x004, 0⟩) = .ok .rdStatus ∧
  decode (.host ⟨.read, 1, 0x1FF, 0⟩) = .ok (.rdfs 255) ∧
  decode (.host ⟨.write, 1, 0x200, 0x15⟩) = .ok (.wrb 0 0x15) ∧
  decode (.host ⟨.write, 1, 0x104, 0⟩) = .ok (.illformedAccess ⟨.write, 1, 0x104, 0⟩) ∧
  decode (.command 0x051B#16 12) = .ok (.cmdEepromRead 12) ∧
  decode (.rawId 0x6902#16) = .ok .toggleResync ∧
  decode (.dma 0xAB) = .ok (.push 0xAB)

/-- A step takes the script's first request and runs what it decodes to on the state without it (R86; the script is the model's, log
entry 3). -/
def Obligations.StepRunsTheDecodedRequest : Prop :=
  ∀ (s : State) (r : Request) (rest : List Request) (i : Instr),
    s.script = r :: rest → decode r = .ok i → step s = exec i (s.withScript rest)

/-! ### Command words -/

/-- NOP (R230): the all-zero word, and no effect. -/
def Obligations.NopLeavesEverything : Prop :=
  decode (.host ⟨.write, 4, 0x000, 0x00000000#32⟩) = .ok .nop ∧ ∀ s : State, exec .nop s = .next s

/-- COMPLETE (R191): `BUSY` falls, or the sequencing error is taken (recorded: log entries 1, 2). -/
def Obligations.CompleteClearsBusyOrIsASequencingError : Prop :=
  ∀ s : State,
    (s.busy = true → exec .complete s = .next { s with busy := false }) ∧
    (s.busy = false →
      exec .complete s = .next { s with seqerr := true, faults := s.faults ++ [.seqCompleteWhileIdle] })

/-- Reserved and ill-formed words (R82, R231, R236) set `BADOP` and nothing else (recorded: log entries 1, 2). -/
def Obligations.BadCommandWordsOnlySetBadop : Prop :=
  ∀ (v : Word) (s : State),
    exec (.reservedOpLow v) s = .next { s with badop := true, faults := s.faults ++ [.badopCtrl] } ∧
    exec (.reservedOpHigh v) s = .next { s with badop := true, faults := s.faults ++ [.badopCtrl] } ∧
    exec (.illformedRsv v) s = .next { s with badop := true, faults := s.faults ++ [.badopCtrl] }

/-! ### The other agents -/

/-- PUSH without an overrun (R232): one ring byte and the write cursor. -/
def Obligations.PushStoresOneByteAndAdvances : Prop :=
  ∀ (b : Byte) (s : State), pendingLength s ≠ 255 →
    ∃ t, exec (.push b) s = .next t ∧ t = { s with ring := t.ring, wptr := s.wptr + 1 } ∧
      Memory.read t.ring s.wptr.toNat = some b ∧
      ∀ a, a ≠ s.wptr.toNat → Memory.read t.ring a = Memory.read s.ring a

/-- PUSH with 255 bytes pending (R233) writes nothing (recorded: log entries 1, 2). -/
def Obligations.OverrunWritesNothing : Prop :=
  ∀ (b : Byte) (s : State), pendingLength s = 255 →
    exec (.push b) s = .next { s with faults := s.faults ++ [.overrun] }

/-- The ring is a queue (R20, R23, R58, R232): a byte pushed without an overrun is the last pending one, and the bytes pending before it
stay as they are. -/
def Obligations.PushAppendsToThePendingBytes : Prop :=
  ∀ (b : Byte) (s : State), pendingLength s ≠ 255 →
    ∃ t, exec (.push b) s = .next t ∧ pendingLength t = pendingLength s + 1 ∧
      pendingByte t (pendingLength s) = some b ∧ ∀ k, k < pendingLength s → pendingByte t k = pendingByte s k

/-- RESET (R340): every element at its value, `TX` kept. -/
def Obligations.ResetSetsEveryElement : Prop :=
  ∀ s : State, ∃ t, exec .reset s = .next t ∧
    t.enc = true ∧ t.rptr = 0 ∧ t.wSnap = 0 ∧ t.result = .idle ∧ t.busy = false ∧
    t.cmdId = 0 ∧ t.fsize = 0 ∧ t.sel = 0 ∧ t.badop = false ∧ t.seqerr = false ∧
    (∀ a, Memory.read t.fs a = none) ∧ (∀ a, Memory.read t.rb a = none) ∧ (∀ a, Memory.read t.ring a = none) ∧
    t.wptr = 0 ∧ t.tx = s.tx

/-- RESET leaves what is no element of the block: the fault record, the host's last value, the draws and the steps to come (log entries 2,
3, 6, 7). -/
def Obligations.ResetKeepsTheRecords : Prop :=
  ∀ s : State, ∃ t, exec .reset s = .next t ∧
    t.faults = s.faults ∧ t.rdata = s.rdata ∧ t.draws = s.draws ∧ t.script = s.script

/-- The start of a run (R42, R341) and what STATUS then reads (R34). -/
def Obligations.StateAfterReset : Prop :=
  State.reset.enc = true ∧ State.reset.rptr = 0 ∧ State.reset.wptr = 0 ∧ State.reset.wSnap = 0 ∧
    State.reset.result = .idle ∧ State.reset.busy = false ∧ State.reset.cmdId = 0 ∧ State.reset.fsize = 0 ∧
    State.reset.sel = 0 ∧ State.reset.badop = false ∧ State.reset.seqerr = false ∧
    (∀ a, Memory.read State.reset.fs a = none) ∧ (∀ a, Memory.read State.reset.rb a = none) ∧
    (∀ a, Memory.read State.reset.ring a = none) ∧ State.reset.tx = [] ∧ State.reset.faults = [] ∧
    statusWord State.reset = 0x00000008#32

/-! ### Host accesses -/

/-- The register reads (R234), each field at its weight, with no other effect (the value stands in `rdata`, log entry 6), and R28's eight
outcome codes. -/
def Obligations.RegisterReadsReturnTheirFields : Prop :=
  (PollResult.idle.code = 0#3 ∧ PollResult.frameOk.code = 1#3 ∧ PollResult.noData.code = 2#3 ∧ PollResult.noMarker.code = 3#3 ∧
    PollResult.incomplete.code = 4#3 ∧ PollResult.sizeOverflow.code = 5#3 ∧ PollResult.badFooter.code = 6#3 ∧
    PollResult.crcMismatch.code = 7#3) ∧
  ∀ s : State,
    exec .rdCtrl s = .next { s with rdata := 0 } ∧
    (∃ t, exec .rdStatus s = .next t ∧ t = { s with rdata := t.rdata } ∧
      t.rdata.toNat =
        64 * s.seqerr.toNat + 32 * s.badop.toNat + 16 * s.busy.toNat + 8 * s.enc.toNat + s.result.code.toNat) ∧
    (∃ t, exec .rdCursor s = .next t ∧ t = { s with rdata := t.rdata } ∧
      t.rdata.toNat =
        2 ^ 24 * ((s.wptr.toNat + 256 - s.rptr.toNat) % 256) + 2 ^ 16 * s.wptr.toNat + 2 ^ 8 * s.wSnap.toNat + s.rptr.toNat) ∧
    (∃ t, exec .rdFrame s = .next t ∧ t = { s with rdata := t.rdata } ∧
      t.rdata.toNat = 2 ^ 16 * s.fsize.toNat + s.cmdId.toNat) ∧
    (∃ t, exec .rdDispatch s = .next t ∧ t = { s with rdata := t.rdata } ∧ t.rdata.toNat = s.sel.toNat)

/-- A window read of a written byte (R235) returns it, with no other effect (the value stands in `rdata`, log entry 6). -/
def Obligations.WindowReadsReturnTheByte : Prop :=
  ∀ (i : BitVec 8) (b : Byte) (s : State),
    (Memory.read s.fs i.toNat = some b → exec (.rdfs i) s = .next { s with rdata := b.zeroExtend 32 }) ∧
    (Memory.read s.rb i.toNat = some b → exec (.rdrb i) s = .next { s with rdata := b.zeroExtend 32 })

/-- A window read of an unwritten byte (R235) is a fault without a status bit; what it returns is free (log entries 1, 2, 7). -/
def Obligations.UnwrittenWindowReadsOnlyRecordTheFault : Prop :=
  ∀ (i : BitVec 8) (s : State),
    (Memory.read s.fs i.toNat = none →
      ∃ t, exec (.rdfs i) s = .next t ∧ t = { s with faults := s.faults ++ [.unwrittenRead], rdata := t.rdata, draws := t.draws }) ∧
    (Memory.read s.rb i.toNat = none →
      ∃ t, exec (.rdrb i) s = .next t ∧ t = { s with faults := s.faults ++ [.unwrittenRead], rdata := t.rdata, draws := t.draws })

/-- WRB (R235) sets one byte of `RB`. -/
def Obligations.WindowWriteSetsOneByte : Prop :=
  ∀ (i : BitVec 8) (v : Byte) (s : State),
    ∃ t, exec (.wrb i v) s = .next t ∧ t = { s with rb := t.rb } ∧ Memory.read t.rb i.toNat = some v ∧
      ∀ a, a ≠ i.toNat → Memory.read t.rb a = Memory.read s.rb a

/-- An ill-formed access (R237) sets `BADOP`; a read returns 0 (recorded: log entries 1, 2, 6). -/
def Obligations.IllFormedAccessesOnlySetBadop : Prop :=
  ∀ (a : Access) (s : State),
    (a.dir = .read →
      exec (.illformedAccess a) s = .next { s with badop := true, faults := s.faults ++ [.badopAccess], rdata := 0 }) ∧
    (a.dir = .write → exec (.illformedAccess a) s = .next { s with badop := true, faults := s.faults ++ [.badopAccess] })

/-! ### The multiplexer -/

/-- The eight command rows (R180, R182 to R189): the latch with the row's id and select, and `BUSY`. -/
def Obligations.CommandRowsLatchTheirSelect : Prop :=
  ∀ (size : U16) (s : State),
    exec (.cmdVersionQuery size) s =
      .next { s with cmdId := 0x0514#16, fsize := size, sel := 1, busy := true, result := .frameOk } ∧
    exec (.cmdEepromRead size) s =
      .next { s with cmdId := 0x051B#16, fsize := size, sel := 2, busy := true, result := .frameOk } ∧
    exec (.cmdEepromWrite size) s =
      .next { s with cmdId := 0x051D#16, fsize := size, sel := 3, busy := true, result := .frameOk } ∧
    exec (.cmdRfTelemetryRead size) s =
      .next { s with cmdId := 0x0527#16, fsize := size, sel := 4, busy := true, result := .frameOk } ∧
    exec (.cmdBatteryTelemetryRead size) s =
      .next { s with cmdId := 0x0529#16, fsize := size, sel := 5, busy := true, result := .frameOk } ∧
    exec (.cmdChallengeResponse size) s =
      .next { s with cmdId := 0x052D#16, fsize := size, sel := 6, busy := true, result := .frameOk } ∧
    exec (.cmdReconfigure size) s =
      .next { s with cmdId := 0x052F#16, fsize := size, sel := 7, busy := true, result := .frameOk } ∧
    exec (.cmdReboot size) s =
      .next { s with cmdId := 0x05DD#16, fsize := size, sel := 8, busy := true, result := .frameOk }

/-- Every other id (R190): latched with `SEL = 0`, `BUSY` unchanged. -/
def Obligations.UnimplementedIdsAreLatchedWithoutBusy : Prop :=
  ∀ (id size : U16) (s : State), id ∉ commandIds →
    decodeCommand id size = .cmdUnimplemented id size ∧
    exec (.cmdUnimplemented id size) s = .next { s with cmdId := id, fsize := size, sel := 0, result := .frameOk }

/-- The multiplexer function over all ids (R181). -/
def Obligations.MuxIsTheTable : Prop :=
  commandIds = [0x0514#16, 0x051B#16, 0x051D#16, 0x0527#16, 0x0529#16, 0x052D#16, 0x052F#16, 0x05DD#16] ∧
  commandIds.Nodup ∧
  ∀ id : U16,
    (∀ k : Fin 8, mux id = BitVec.ofNat 4 (k.val + 1) ↔ commandIds[k.val]? = some id) ∧
    (mux id = 0 ↔ id ∉ commandIds) ∧ (mux id).toNat ≤ 8

/-! ### The cipher -/

/-- The two toggle rows (R142), and a raw id that is neither (R84). -/
def Obligations.TogglesSetTheMode : Prop :=
  (∀ s : State, exec .togglePlain s = .next { s with enc := false } ∧ exec .toggleResync s = .next { s with enc := true }) ∧
  ∀ (raw : U16) (enc : Bool),
    (raw = 0x0514#16 → toggledMode raw enc = false) ∧ (raw = 0x6902#16 → toggledMode raw enc = true) ∧
      (raw ≠ 0x0514#16 → raw ≠ 0x6902#16 → toggledMode raw enc = enc)

/-- The transform (R144) with R141's sixteen key bytes (general knowledge, log entry 9), byte by byte over a region (R140), and R145, for
every position and every byte content. -/
def Obligations.ObfuscationIsAnInvolution : Prop :=
  (∀ (i : Nat) (b : Byte), obf i b = b ^^^ [0x16#8, 0x6C#8, 0x14#8, 0xE6#8, 0x2E#8, 0x91#8, 0x0D#8, 0x40#8, 0x21#8, 0x35#8, 0xD5#8,
    0x40#8, 0x13#8, 0x03#8, 0xE9#8, 0x80#8].getD (i % 16) 0#8) ∧
  (∀ (i : Nat) (bs : List Byte) (k : Nat), (obfFrom i bs)[k]? = bs[k]?.map (obf (i + k))) ∧
  (∀ (i : Nat) (b : Byte), obf i (obf i b) = b) ∧ ∀ (i : Nat) (bs : List Byte), obfFrom i (obfFrom i bs) = bs

/-- R146: a version query re-synchronises the mode in either form, and (R190) no frame's deobfuscated id is the resync id. -/
def Obligations.VersionQueryResynchronisesEitherWay : Prop :=
  ∀ (enc : Bool) (raw : List Byte), 2 ≤ raw.length →
    (regionId raw = Config.device.idResync →
      toggledMode (regionId raw) enc = true ∧ regionId (clearedRegion enc raw) = Config.idPlain) ∧
    (regionId raw = Config.idPlain →
      toggledMode (regionId raw) enc = false ∧ regionId (clearedRegion enc raw) = Config.idPlain) ∧
    regionId (clearedRegion enc raw) ≠ Config.device.idResync

/-! ### The CRC -/

/-- R160's check values. -/
def Obligations.CrcCheckValues : Prop :=
  crc16 [0x31, 0x32, 0x33, 0x34, 0x35, 0x36, 0x37, 0x38, 0x39] = 0x31C3#16 ∧
  crc16 [] = 0x0000#16 ∧ crc16 [0x00] = 0x0000#16 ∧ crc16 [0x01] = 0x1021#16 ∧ crc16 [0xFF] = 0x1EF0#16

/-- R163: linear over XOR for sequences of equal length. -/
def Obligations.CrcIsLinear : Prop :=
  ∀ a e : List Byte, a.length = e.length → crc16 (List.zipWith (· ^^^ ·) a e) = crc16 a ^^^ crc16 e

/-- R164's core: one flipped payload bit, with the CRC as it was, makes the check fail. -/
def Obligations.CrcCatchesEverySingleBitError : Prop :=
  ∀ (size : Nat) (region : List Byte) (k j : Nat), region.length = size + 2 → k < size → j < 8 →
    crcMatches size region = true →
    crcMatches size (region.set k (region.getD k 0 ^^^ (1#8 <<< j))) = false

/-! ### POLL -/

/-- POLL while `BUSY` (R102) changes nothing but the sticky bit (recorded: log entries 1, 2). -/
def Obligations.PollWhileBusyOnlySetsSeqerr : Prop :=
  ∀ s : State, s.busy = true →
    exec .poll s = .next { s with seqerr := true, faults := s.faults ++ [.seqPollWhileBusy] }

/-- No POLL reads an unwritten ring byte where every pending byte is written (R59, R300). -/
def Obligations.PollOfWrittenBytesNeverFaults : Prop :=
  ∀ s : State, s.busy = false → pendingWritten s → ∃ t, exec .poll s = .next t ∧ t.faults = s.faults

/-- R301, row by row, with the read cursor each outcome leaves (R116): the first row that holds gives the outcome. -/
def Obligations.PollOutcomeIsTheFirstRowThatHolds : Prop :=
  ∀ s : State, s.busy = false → pendingWritten s → ∃ t, exec .poll s = .next t ∧
    (s.rptr = s.wptr → t.result = .noData ∧ t.rptr = s.rptr) ∧
    (s.rptr ≠ s.wptr → (∀ k, ¬candidate s k) → t.result = .noMarker ∧ t.rptr = s.wptr) ∧
    (∀ k, firstCandidate s k →
      (pendingLength s - k < 8 → t.result = .incomplete ∧ t.rptr = s.rptr + BitVec.ofNat 8 k) ∧
      (8 ≤ pendingLength s - k → ∃ size, sizeAt s k size ∧
        (size.toNat + 8 > 256 → t.result = .sizeOverflow ∧ t.rptr = s.wptr) ∧
        (size.toNat + 8 ≤ 256 → pendingLength s - k < size.toNat + 8 →
          t.result = .incomplete ∧ t.rptr = s.rptr + BitVec.ofNat 8 k) ∧
        (size.toNat + 8 ≤ pendingLength s - k → ¬footerAt s k size → t.result = .badFooter ∧ t.rptr = s.wptr) ∧
        (size.toNat + 8 ≤ pendingLength s - k → footerAt s k size →
          t.rptr = s.rptr + BitVec.ofNat 8 (k + size.toNat + 8) ∧ ∃ raw, framePending s k size raw ∧
            (crcMatches size.toNat (clearedRegion s.enc raw) = false → t.result = .crcMismatch) ∧
            (crcMatches size.toNat (clearedRegion s.enc raw) = true → t.result = .frameOk))))

/-- The whole effect of taking a frame (R111, R112, R142, R143, R161, R162, R180), and that nothing else changes. That a mismatch overwrites
`FS` follows R162 and R347 against R191's corner: the model's reading (DEDUCED, log entry 22). -/
def Obligations.PollTakesThePendingFrame : Prop :=
  ∀ (s : State) (k : Nat) (size : U16) (raw : List Byte), s.busy = false → pendingWritten s → framePending s k size raw →
    ∃ t, exec .poll s = .next t ∧
      (crcMatches size.toNat (clearedRegion s.enc raw) = true →
        t = { s with
          ring := t.ring, fs := t.fs, wSnap := s.wptr, rptr := s.rptr + BitVec.ofNat 8 (k + size.toNat + 8)
          enc := toggledMode (regionId raw) s.enc, result := .frameOk
          cmdId := regionId (clearedRegion s.enc raw), fsize := size
          sel := mux (regionId (clearedRegion s.enc raw)), busy := mux (regionId (clearedRegion s.enc raw)) != 0 }) ∧
      (crcMatches size.toNat (clearedRegion s.enc raw) = false →
        t = { s with
          ring := t.ring, fs := t.fs, wSnap := s.wptr, rptr := s.rptr + BitVec.ofNat 8 (k + size.toNat + 8)
          enc := toggledMode (regionId raw) s.enc, result := .crcMismatch }) ∧
      (∀ a, (∃ j, j < size.toNat + 8 ∧ a = ringIndex s.rptr (k + j)) → Memory.read t.ring a = some 0) ∧
      (∀ a, (¬∃ j, j < size.toNat + 8 ∧ a = ringIndex s.rptr (k + j)) → Memory.read t.ring a = Memory.read s.ring a) ∧
      (∀ a, a < size.toNat + 2 → Memory.read t.fs a = (clearedRegion s.enc raw)[a]?) ∧
      (∀ a, size.toNat + 2 ≤ a → Memory.read t.fs a = Memory.read s.fs a)

/-- What POLL never writes (R117): `TX` and `RB` ever; and without a frame nothing but `W_SNAP`, `RPTR` and `RESULT`. -/
def Obligations.PollWithoutAFrameWritesThreeRegisters : Prop :=
  ∀ s t : State, exec .poll s = .next t →
    t.tx = s.tx ∧ t.rb = s.rb ∧
    (s.busy = false → t.faults = s.faults → t.result ≠ .frameOk → t.result ≠ .crcMismatch →
      t = { s with wSnap := s.wptr, rptr := t.rptr, result := t.result })

/-- R116: where each outcome leaves the read cursor, always on the path to the sampled write cursor. -/
def Obligations.PollCursorLaw : Prop :=
  ∀ s t : State, s.busy = false → exec .poll s = .next t → t.faults = s.faults →
    t.wptr = s.wptr ∧ pendingCount s.rptr t.rptr ≤ pendingCount s.rptr s.wptr ∧
    (t.result = .noData → t.rptr = s.rptr) ∧
    (t.result = .incomplete → ∃ k, firstCandidate s k ∧ t.rptr = s.rptr + BitVec.ofNat 8 k) ∧
    (t.result = .noMarker ∨ t.result = .sizeOverflow ∨ t.result = .badFooter → t.rptr = s.wptr) ∧
    (t.result = .frameOk ∨ t.result = .crcMismatch → ∃ k size raw, framePending s k size raw ∧
      t.rptr = s.rptr + BitVec.ofNat 8 (k + size.toNat + 8) ∧
      pendingLength t = pendingLength s - k - (size.toNat + 8))

/-- R59, R60: POLL writes no ring byte outside the span pending at its sample. -/
def Obligations.PollWritesOnlyPendingRingBytes : Prop :=
  ∀ (s t : State) (a : Nat), exec .poll s = .next t → (∀ k, k < pendingLength s → a ≠ ringIndex s.rptr k) →
    Memory.read t.ring a = Memory.read s.ring a

/-- R114: what a POLL extracts depends only on the pending bytes, not on where they lie in the ring. -/
def Obligations.WraparoundEquivalence : Prop :=
  ∀ s₁ s₂ : State, s₁.busy = false → s₂.busy = false → s₁.enc = s₂.enc → s₁.fs = s₂.fs → s₁.cmdId = s₂.cmdId →
    s₁.fsize = s₂.fsize → s₁.sel = s₂.sel → pendingWritten s₁ → samePending s₁ s₂ →
    ∃ t₁ t₂, exec .poll s₁ = .next t₁ ∧ exec .poll s₂ = .next t₂ ∧
      t₁.result = t₂.result ∧ t₁.fs = t₂.fs ∧ t₁.enc = t₂.enc ∧ t₁.cmdId = t₂.cmdId ∧ t₁.fsize = t₂.fsize ∧
      t₁.sel = t₂.sel ∧ t₁.busy = t₂.busy ∧
      pendingCount s₁.rptr t₁.rptr = pendingCount s₂.rptr t₂.rptr ∧ samePending t₁ t₂

/-- R344: a size-248 header at the read cursor is never extracted; every POLL is `INCOMPLETE` there. -/
def Obligations.Size248HeaderStalls : Prop :=
  ∀ s : State, s.busy = false → 8 ≤ pendingLength s → pendingByte s 0 = some 0xAB → pendingByte s 1 = some 0xCD →
    pendingByte s 2 = some 0xF8 → pendingByte s 3 = some 0x00 →
    exec .poll s = .next { s with wSnap := s.wptr, result := .incomplete }

/-- R353: a POLL whose outcome is neither `NO_DATA` nor `INCOMPLETE` advances the read cursor. -/
def Obligations.PollMakesProgress : Prop :=
  ∀ s t : State, s.busy = false → exec .poll s = .next t → t.faults = s.faults → t.result ≠ .noData → t.result ≠ .incomplete →
    t.rptr ≠ s.rptr

/-- R113, R142, R180: a POLL that takes a frame is the decoded command row run after the decoded toggle row. -/
def Obligations.PollRunsItsDecodedRows : Prop :=
  ∀ (s : State) (k : Nat) (size : U16) (raw : List Byte), s.busy = false → pendingWritten s → framePending s k size raw →
    crcMatches size.toNat (clearedRegion s.enc raw) = true →
    (∀ i, decodeRawId (regionId raw) = some i → exec i s = .next { s with enc := toggledMode (regionId raw) s.enc }) ∧
    (decodeRawId (regionId raw) = none → toggledMode (regionId raw) s.enc = s.enc) ∧
    exec .poll s =
      exec (decodeCommand (regionId (clearedRegion s.enc raw)) size)
        { s with
          ring := zeroFill s.ring (s.rptr + BitVec.ofNat 8 k) (size.toNat + 8)
          rptr := s.rptr + BitVec.ofNat 8 (k + size.toNat + 8), wSnap := s.wptr
          enc := toggledMode (regionId raw) s.enc, fs := storeFromZero s.fs (clearedRegion s.enc raw) }

/-- The round trip (R70, R73, R74, R353, R350): a sender's frame in the mode it leaves the block in, pending at the read cursor, is
extracted whole by the next POLL. -/
def Obligations.SentFrameRoundTrip : Prop :=
  ∀ (s : State) (enc : Bool) (payload : List Byte), s.busy = false → payload.length ≤ 247 →
    pendingStartsWith s (inboundFrame enc payload) →
    toggledMode (regionId (applyMode enc (clearRegion payload))) s.enc = enc →
    ∃ t, exec .poll s = .next t ∧ t.result = .frameOk ∧ t.enc = enc ∧
      Memory.readAll t.fs (List.range (payload.length + 2)) = some (clearRegion payload) ∧
      t.cmdId = regionId (clearRegion payload) ∧ t.fsize.toNat = payload.length ∧
      t.sel = mux (regionId (clearRegion payload)) ∧
      t.rptr = s.rptr + BitVec.ofNat 8 (payload.length + 8) ∧ t.faults = s.faults

/-- R118: with more bytes pending behind a sender's frame, one POLL takes that frame alone, and the rest is what pends next, unchanged. -/
def Obligations.FramesAreTakenOneAtATime : Prop :=
  ∀ (s : State) (enc : Bool) (payload rest : List Byte), s.busy = false → payload.length ≤ 247 →
    pendingStartsWith s (inboundFrame enc payload ++ rest) →
    ∃ t, exec .poll s = .next t ∧ (t.result = .frameOk ∨ t.result = .crcMismatch) ∧
      pendingLength t = pendingLength s - (payload.length + 8) ∧ pendingStartsWith t rest

/-- R192: of the agents' steps only a POLL with outcome `FRAME_OK` selects a handler or raises `BUSY` (RESET clears the select). -/
def Obligations.NoDispatchWithoutAValidFrame : Prop :=
  ∀ (i : Instr) (s t : State), (encode i).fromAgent = true → exec i s = .next t →
    (t.sel ≠ s.sel ∨ (s.busy = false ∧ t.busy = true)) → i = .reset ∨ (i = .poll ∧ t.result = .frameOk)

/-! ### REPLY -/

/-- R77: the reply on the wire in each mode, and (R212) what it leaves in `RB`. -/
def Obligations.ReplyEmitsItsFrame : Prop :=
  ∀ (n : U16) (s : State) (payload : List Byte), n.toNat ≤ 256 → Memory.readAll s.rb (List.range n.toNat) = some payload →
    (s.enc = false →
      exec (.reply n) s = .next
        { s with tx := s.tx ++ ([0xAB, 0xCD, lo8 n, hi8 n] ++ payload ++ [0xFF, 0xFF, 0xDC, 0xBA]) }) ∧
    (s.enc = true → ∃ t, exec (.reply n) s = .next t ∧
      t = { s with
        rb := t.rb
        tx := s.tx ++ ([0xAB, 0xCD, lo8 n, hi8 n] ++ obfFrom 0 payload ++
          [keyByte n.toNat ^^^ 0xFF, keyByte (n.toNat + 1) ^^^ 0xFF, 0xDC, 0xBA]) } ∧
      (∀ a, a < n.toNat → Memory.read t.rb a = (obfFrom 0 payload)[a]?) ∧
      (∀ a, n.toNat ≤ a → Memory.read t.rb a = Memory.read s.rb a))

/-- R210's two refusals, checked before anything is emitted (recorded: log entries 1, 2). -/
def Obligations.ReplyRefusalsEmitNothing : Prop :=
  ∀ (n : U16) (s : State),
    (256 < n.toNat → exec (.reply n) s = .next { s with badop := true, faults := s.faults ++ [.replyTooLong] }) ∧
    (n.toNat ≤ 256 → (∃ i, i < n.toNat ∧ Memory.read s.rb i = none) →
      exec (.reply n) s = .next { s with faults := s.faults ++ [.unwrittenRead] })

/-- R212, R348: a second encrypted REPLY of the same length sends the cleartext with an obfuscated footer and restores `RB`. -/
def Obligations.SecondReplySendsTheCleartext : Prop :=
  ∀ (n : U16) (s t : State) (payload : List Byte), s.enc = true → n.toNat ≤ 256 →
    Memory.readAll s.rb (List.range n.toNat) = some payload → exec (.reply n) s = .next t →
    ∃ u, exec (.reply n) t = .next u ∧ Memory.readAll u.rb (List.range n.toNat) = some payload ∧
      u.tx = t.tx ++ ([0xAB, 0xCD, lo8 n, hi8 n] ++ payload ++
        [keyByte n.toNat ^^^ 0xFF, keyByte (n.toNat + 1) ^^^ 0xFF, 0xDC, 0xBA])

/-! ### Whole-machine rules -/

/-- R302, R304: a step that faults has the sticky bit of its reason and no other effect on the block; it reports one reason (log entries
1, 2, 6, 7). -/
def Obligations.FaultsHaveOnlyTheirStickyBit : Prop :=
  ∀ (i : Instr) (s t : State), exec i s = .next t →
    t.faults = s.faults ∨ ∃ f, t =
      { s with
        badop := s.badop || f.setsBadop, seqerr := s.seqerr || f.setsSeqerr, faults := s.faults ++ [f]
        rdata := t.rdata, draws := t.draws }

/-- R31, R305: no instruction but RESET clears a sticky bit. -/
def Obligations.OnlyResetClearsStickyBits : Prop :=
  ∀ (i : Instr) (s t : State), exec i s = .next t → i ≠ .reset →
    (s.badop = true → t.badop = true) ∧ (s.seqerr = true → t.seqerr = true)

/-- R32: `TX` is append-only, only REPLY appends to it, and it is empty at the start of a run. -/
def Obligations.OnlyReplyAppendsToTx : Prop :=
  State.reset.tx = [] ∧
  ∀ (i : Instr) (s t : State), exec i s = .next t →
    ∃ out, t.tx = s.tx ++ out ∧ (out ≠ [] → ∃ n, i = .reply n)

/-- R20 to R32: each element of R42's table, and `TX`, has only the writers its rule names. -/
def Obligations.EveryElementHasItsWriters : Prop :=
  ∀ (i : Instr) (s t : State), (encode i).fromAgent = true → exec i s = .next t → i ≠ .reset →
    (t.wptr ≠ s.wptr → ∃ b, i = .push b) ∧
    (t.ring ≠ s.ring → (∃ b, i = .push b) ∨ i = .poll) ∧
    (t.rb ≠ s.rb → (∃ j v, i = .wrb j v) ∨ ∃ n, i = .reply n) ∧
    (t.busy ≠ s.busy → i = .poll ∨ i = .complete) ∧
    (t.badop ≠ s.badop → (∃ n, i = .reply n ∧ 256 < n.toNat) ∨ (∃ v, i = .reservedOpLow v) ∨ (∃ v, i = .reservedOpHigh v) ∨
      (∃ v, i = .illformedRsv v) ∨ ∃ a, i = .illformedAccess a) ∧
    (t.seqerr ≠ s.seqerr → (i = .poll ∧ s.busy = true) ∨ (i = .complete ∧ s.busy = false)) ∧
    (t.tx ≠ s.tx → ∃ n, i = .reply n) ∧
    (i ≠ .poll → t.rptr = s.rptr ∧ t.wSnap = s.wSnap ∧ t.enc = s.enc ∧ t.result = s.result ∧ t.fs = s.fs ∧
      t.cmdId = s.cmdId ∧ t.fsize = s.fsize ∧ t.sel = s.sel)

/-- R304's terminal reading ends exactly where the machine records a fault, with that reason (log entry 1). -/
def Obligations.ModelStepEndsExactlyAtAFault : Prop :=
  ∀ s t : State, step s = .next t →
    (t.faults = s.faults → modelStep s = .next t) ∧ (∀ f, t.faults = s.faults ++ [f] → modelStep s = .fault f)

/-! ### Invariants -/

/-- The memories keep their canonical form (R55). -/
def Obligations.MemoriesStayCanonical : Prop :=
  ∀ s t : State, memoriesCanonical s → step s = .next t → memoriesCanonical t

/-- Every pending byte stays one the producer has written (R59, R300, R341). -/
def Obligations.PendingBytesStayWritten : Prop :=
  ∀ s t : State, pendingWritten s → step s = .next t → pendingWritten t

/-- R193, R29: with only the agents' steps to come, the latches stay coherent and an outstanding command's frame stays in `FS`. -/
def Obligations.HandlerViewIsStable : Prop :=
  ∀ s t : State, agentScript s → latchCoherent s → frameHeld s → step s = .next t →
    agentScript t ∧ latchCoherent t ∧ frameHeld t

/-- A sticky bit stays backed by a recorded fault (R31, R300; the record is the model's, log entry 2). -/
def Obligations.StickyBitsStayRecorded : Prop :=
  ∀ s t : State, stickyRecorded s → step s = .next t → stickyRecorded t

/-- The state after reset meets every invariant above. -/
def Obligations.ResetMeetsTheInvariants : Prop :=
  memoriesCanonical State.reset ∧ pendingWritten State.reset ∧ agentScript State.reset ∧ latchCoherent State.reset ∧
    frameHeld State.reset ∧ stickyRecorded State.reset

/-! ### The handler environment (outside the block) -/

/-- R266, R267: three failures from the start lock, and no later response, right or wrong, changes that. -/
def Obligations.ThirdFailureLocksForTheSession : Prop :=
  ∀ (e : Env) (r₁ r₂ r₃ r₄ : Config.Block), e.attempts = 0 →
    responseAccepted e r₁ = false → responseAccepted e r₂ = false → responseAccepted e r₃ = false →
    (authenticate r₃ (authenticate r₂ (authenticate r₁ e))).locked = true ∧
    (authenticate r₃ (authenticate r₂ (authenticate r₁ e))).attempts = 3 ∧
    authenticate r₄ (authenticate r₃ (authenticate r₂ (authenticate r₁ e))) =
      authenticate r₃ (authenticate r₂ (authenticate r₁ e))

/-- R269, R272: a locked eeprom-write writes no byte, clears no flag, and still replies. -/
def Obligations.LockedWriteStillReplies : Prop :=
  ∀ (frame : List Byte) (e : Env), e.locked = true →
    (handleEepromWrite frame e).1 = e ∧ (∀ a, (handleEepromWrite frame e).1.eepromByte a = e.eepromByte a) ∧
      ∃ n, encode (.reply n) ∈ (handleEepromWrite frame e).2

/-- R271: the clamp, and the source's example. -/
def Obligations.ReadClampStaysInside : Prop :=
  (∀ offset size : Nat,
    clampRead offset size ≤ 128 ∧ clampRead offset size ≤ size ∧
      (0 < clampRead offset size → offset + clampRead offset size ≤ 0x2000) ∧
      (offset < 0x2000 → clampRead offset size = size ∨ clampRead offset size = 128 ∨
        offset + clampRead offset size = 0x2000)) ∧
  clampRead (0x2000 - 4) 128 = 4

/-- R260, R276: a handler reaches the block only through RB writes, REPLY and, last, COMPLETE, and reboot only through RESET; one runs only
where a command is due (R239), which reloads the session counter (R278); and a whole turn of R239's loop: POLL, RD STATUS, and for each
`FRAME_OK` POLL with a select the handler once. Three things here are the model's choice and no rule's: that the counter is still at its reload
value after a reboot (`SEL` 8; R276 and R278 are silent, log entry 15), that the host's next steps stand in `script` (log entry 3), and that no other agent
steps inside a turn (one interleaving of R303's, log entry 23). -/
def Obligations.HandlersUseOnlyTheHostInterface : Prop :=
  (∀ (s : State) (e : Env) (r : Request), r ∈ (handle s e).2 →
    (s.sel = 8 ∧ r = encode .reset) ∨
    (s.sel ≠ 8 ∧ ((∃ i v, r = encode (.wrb i v)) ∨ (∃ n, r = encode (.reply n)) ∨ r = encode .complete))) ∧
  (∀ (s : State) (e : Env), s.result ≠ .frameOk ∨ s.busy = false → handle s e = (e, []) ∧ serve s e = (e, s)) ∧
  (∀ (s : State) (e : Env), s.result = .frameOk → s.busy = true →
    (s.sel = 0 → handle s e = (e, [])) ∧
    (s.sel ≠ 0 → (handle s e).1.session = Config.sessionTicks) ∧
    (s.sel = 8 → (handle s e).2 = [encode .reset]) ∧
    (1 ≤ s.sel.toNat → s.sel.toNat ≤ 7 → ∃ steps, (handle s e).2 = steps ++ [encode .complete] ∧
      ∀ r ∈ steps, (∃ i v, r = encode (.wrb i v)) ∨ ∃ n, r = encode (.reply n)) ∧
    serve s e = ((handle s e).1, { s with script := dispatchReads s ++ (handle s e).2 ++ s.script })) ∧
  ∀ (s : State) (e : Env), s.busy = false → ∃ t, exec .poll s = .next t ∧
    ((t.result = .frameOk ∧ t.sel ≠ 0 ∧ t.faults = s.faults ∧ t.busy = true ∧
        hostTurn s e = ((handle t e).1,
          .next { t with rdata := statusWord t, script := dispatchReads t ++ (handle t e).2 ++ s.script })) ∨
      (t.busy = false ∧ hostTurn s e = (e, .next { t with rdata := statusWord t })))
end

