-- ==== Sys2Proof/Laws/Decode.lean ====
section
/-! SUPPORT. The fields of a command word, and what each decoder can answer, said once. -/

namespace Sys2Proof

/-- The value of two appended bit vectors. -/
theorem toNat_append_add (m n : Nat) (x : BitVec m) (y : BitVec n) : (x ++ y).toNat = x.toNat * 2 ^ n + y.toNat := by
  rw [BitVec.toNat_append, ← Nat.shiftLeft_add_eq_or_of_lt y.isLt, Nat.shiftLeft_eq]

theorem opField_toNat (v : Word) : (Machine.opField v).toNat = v.toNat % 16 := by
  simp [Machine.opField, BitVec.extractLsb'_toNat]

theorem rsvField_toNat (v : Word) : (Machine.rsvField v).toNat = v.toNat / 16 % 4096 := by
  simp [Machine.rsvField, BitVec.extractLsb'_toNat, Nat.shiftRight_eq_div_pow]

theorem lenField_toNat (v : Word) : (Machine.lenField v).toNat = v.toNat / 65536 := by
  have := v.isLt
  simp only [Machine.lenField, BitVec.extractLsb'_toNat, Nat.shiftRight_eq_div_pow]
  omega

theorem commandWord_toNat (op : BitVec 4) (len : U16) : (Machine.commandWord op len).toNat = len.toNat * 65536 + op.toNat := by
  have := op.isLt
  unfold Machine.commandWord
  rw [toNat_append_add, toNat_append_add]
  simp

/-- The fields of a command word built from them. -/
@[simp] theorem opField_commandWord (op : BitVec 4) (len : U16) : Machine.opField (Machine.commandWord op len) = op := by
  have := op.isLt
  apply BitVec.eq_of_toNat_eq
  rw [opField_toNat, commandWord_toNat]
  omega

@[simp] theorem rsvField_commandWord (op : BitVec 4) (len : U16) : Machine.rsvField (Machine.commandWord op len) = 0 := by
  have := op.isLt
  apply BitVec.eq_of_toNat_eq
  rw [rsvField_toNat, commandWord_toNat]
  simp only [BitVec.ofNat_eq_ofNat, BitVec.toNat_ofNat, Nat.zero_mod]
  omega

@[simp] theorem lenField_commandWord (op : BitVec 4) (len : U16) : Machine.lenField (Machine.commandWord op len) = len := by
  have := op.isLt
  apply BitVec.eq_of_toNat_eq
  rw [lenField_toNat, commandWord_toNat]
  omega

/-- A word whose reserved field is 0 is the command word of its other two. -/
theorem commandWord_fields (v : Word) (h : Machine.rsvField v = 0) :
    Machine.commandWord (Machine.opField v) (Machine.lenField v) = v := by
  have h' := congrArg BitVec.toNat h
  rw [rsvField_toNat] at h'
  have := v.isLt
  apply BitVec.eq_of_toNat_eq
  rw [commandWord_toNat, opField_toNat, lenField_toNat]
  simp only [BitVec.ofNat_eq_ofNat, BitVec.toNat_ofNat, Nat.zero_mod] at h'
  omega

/-- What the command-word decoder can answer, said once (R81, R231, R236). -/
theorem decodeCtrl_cases (v : Word) :
    (8 ≤ (Machine.opField v).toNat ∧ decodeCtrl v = .reservedOpHigh v) ∨
    (4 ≤ (Machine.opField v).toNat ∧ (Machine.opField v).toNat < 8 ∧ decodeCtrl v = .reservedOpLow v) ∨
    ((Machine.opField v).toNat < 4 ∧ (Machine.rsvField v ≠ 0 ∨ (Machine.opField v ≠ 2 ∧ Machine.lenField v ≠ 0)) ∧
      decodeCtrl v = .illformedRsv v) ∨
    (v = Machine.commandWord 0 0 ∧ decodeCtrl v = .nop) ∨
    (v = Machine.commandWord 1 0 ∧ decodeCtrl v = .poll) ∨
    (v = Machine.commandWord 2 (Machine.lenField v) ∧ decodeCtrl v = .reply (Machine.lenField v)) ∨
    (v = Machine.commandWord 3 0 ∧ decodeCtrl v = .complete) := by
  unfold decodeCtrl
  by_cases h8 : 8 ≤ (Machine.opField v).toNat
  · exact .inl ⟨h8, if_pos h8⟩
  right
  by_cases h4 : 4 ≤ (Machine.opField v).toNat
  · exact .inl ⟨h4, by omega, by rw [if_neg h8, if_pos h4]⟩
  right
  rw [if_neg h8, if_neg h4]
  by_cases hr : Machine.rsvField v ≠ 0 ∨ (Machine.opField v ≠ 2 ∧ Machine.lenField v ≠ 0)
  · exact .inl ⟨by omega, hr, if_pos hr⟩
  right
  rw [if_neg hr]
  simp only [not_or, not_and, not_not] at hr
  obtain ⟨hrsv, hlen⟩ := hr
  have hw := commandWord_fields v hrsv
  by_cases h0 : Machine.opField v = 0
  · have hl := hlen (by rw [h0]; decide)
    exact .inl ⟨by rw [h0, hl] at hw; exact hw.symm, if_pos h0⟩
  right
  by_cases h1 : Machine.opField v = 1
  · have hl := hlen (by rw [h1]; decide)
    exact .inl ⟨by rw [h1, hl] at hw; exact hw.symm, by rw [if_neg h0, if_pos h1]⟩
  right
  by_cases h2 : Machine.opField v = 2
  · exact .inl ⟨by rw [h2] at hw; exact hw.symm, by rw [if_neg h0, if_neg h1, if_pos h2]⟩
  right
  have h3 : Machine.opField v = 3 := by
    clear hw hlen
    generalize Machine.opField v = op at *
    revert op; decide
  have hl := hlen h2
  exact ⟨by rw [h3, hl] at hw; exact hw.symm, by rw [if_neg h0, if_neg h1, if_neg h2]⟩

/-- What the host-access decoder can answer, said once (R34, R52, R237). -/
theorem decodeAccess_cases (a : Access) :
    (a.isRegisterRead = true ∧ decodeAccess a = decodeRegisterRead a.offset) ∨
    (a.isCtrlWrite = true ∧ decodeAccess a = decodeCtrl a.data) ∨
    (a.isFrameRead = true ∧ decodeAccess a = .rdfs (BitVec.ofNat 8 a.offset)) ∨
    (a.isReplyRead = true ∧ decodeAccess a = .rdrb (BitVec.ofNat 8 a.offset)) ∨
    (a.isReplyWrite = true ∧ decodeAccess a = .wrb (BitVec.ofNat 8 a.offset) (a.data.extractLsb' 0 8)) ∨
    (a.wellFormed = false ∧ decodeAccess a = .illformedAccess a) := by
  unfold decodeAccess Access.wellFormed
  cases a.isRegisterRead <;> cases a.isCtrlWrite <;> cases a.isFrameRead <;> cases a.isReplyRead <;> cases a.isReplyWrite <;> simp

end Sys2Proof
end

