-- ==== Sys2Proof/Laws/Memory.lean ====
section
/-! SUPPORT. The laws of the byte memories: read after write, and every operation keeps the canonical form. -/

namespace Sys2Proof.Machine

@[simp] theorem Memory.read_nil (a : Nat) : Memory.read [] a = none := rfl

theorem Memory.read_cons (k : Nat) (b : Byte) (m : Memory) (a : Nat) :
    Memory.read ((k, b) :: m) a = if k = a then some b else Memory.read m a := rfl

/-- A read after a write gives the value written. -/
@[simp] theorem Memory.read_write_same (m : Memory) (a : Nat) (b : Byte) : Memory.read (Memory.write m a b) a = some b := by
  induction m with
  | nil => simp [Memory.write, Memory.read]
  | cons c m ih =>
    obtain ⟨k, c⟩ := c
    simp only [Memory.write]
    split
    · simp [Memory.read]
    · split
      · simp [Memory.read]
      · rename_i h1 h2
        simp [Memory.read, Ne.symm h2, ih]

/-- A write leaves every other address alone. -/
theorem Memory.read_write_other (m : Memory) (a x : Nat) (b : Byte) (h : x ≠ a) :
    Memory.read (Memory.write m a b) x = Memory.read m x := by
  induction m with
  | nil => simp [Memory.write, Memory.read, Ne.symm h]
  | cons c m ih =>
    obtain ⟨k, c⟩ := c
    simp only [Memory.write]
    split
    · simp [Memory.read, Ne.symm h]
    · split
      · rename_i h1 h2
        subst h2
        simp [Memory.read, Ne.symm h]
      · simp [Memory.read, ih]

theorem Memory.read_write (m : Memory) (a x : Nat) (b : Byte) :
    Memory.read (Memory.write m a b) x = if x = a then some b else Memory.read m x := by
  split
  · rename_i h; simp [h]
  · rename_i h; exact Memory.read_write_other m a x b h

theorem Memory.wf_nil (bound : Nat) : Memory.wf bound [] = true := rfl

/-- The canonical form, as facts: every address below the bound, and below every later one. -/
theorem Memory.wf_cons (bound k : Nat) (c : Byte) (m : Memory) :
    Memory.wf bound ((k, c) :: m) = true ↔
      k < bound ∧ (∀ x ∈ m.head?, k < x.1) ∧ Memory.wf bound m = true := by
  induction m generalizing k c with
  | nil => simp [Memory.wf]
  | cons d m ih =>
    obtain ⟨j, d⟩ := d
    simp only [Memory.wf, Bool.and_eq_true, decide_eq_true_eq, List.head?_cons, Option.mem_def, Option.some.injEq, forall_eq']
    rw [ih j d]
    constructor
    · rintro ⟨h1, h2, h3, h4⟩; exact ⟨by omega, h1, h2, h3, h4⟩
    · rintro ⟨_, h1, h2, h3, h4⟩; exact ⟨h1, h2, h3, h4⟩

/-- A write inside the bound keeps the canonical form. -/
theorem Memory.write_wf (bound : Nat) (m : Memory) (a : Nat) (b : Byte) (h : Memory.wf bound m = true) (ha : a < bound) :
    Memory.wf bound (Memory.write m a b) = true := by
  induction m with
  | nil => simp [Memory.write, Memory.wf, ha]
  | cons c m ih =>
    obtain ⟨k, c⟩ := c
    obtain ⟨hk, hhead, hm⟩ := (Memory.wf_cons bound k c m).1 h
    simp only [Memory.write]
    split
    · rename_i hlt
      rw [Memory.wf_cons]
      exact ⟨ha, by simpa using hlt, h⟩
    · split
      · rename_i h1 h2
        subst h2
        exact (Memory.wf_cons bound a b m).2 ⟨ha, hhead, hm⟩
      · rename_i h1 h2
        rw [Memory.wf_cons]
        refine ⟨hk, ?_, ih hm⟩
        cases m with
        | nil => simp [Memory.write]; omega
        | cons d m =>
          obtain ⟨j, d⟩ := d
          have hj := hhead (j, d) (by simp)
          simp only [Memory.write]
          split
          · simp; omega
          · split
            · simp; omega
            · simpa using hj

@[simp] theorem Memory.writeAll_nil (m : Memory) : Memory.writeAll m [] = m := rfl

@[simp] theorem Memory.writeAll_cons (m : Memory) (a : Nat) (b : Byte) (cs : List Host.Cell) :
    Memory.writeAll m ((a, b) :: cs) = Memory.writeAll (Memory.write m a b) cs := rfl

/-- Writing cells inside the bound keeps the canonical form. -/
theorem Memory.writeAll_wf (bound : Nat) (m : Memory) (cs : List Host.Cell) (h : Memory.wf bound m = true)
    (hcs : ∀ c ∈ cs, c.1 < bound) : Memory.wf bound (Memory.writeAll m cs) = true := by
  induction cs generalizing m with
  | nil => exact h
  | cons c cs ih =>
    obtain ⟨a, b⟩ := c
    exact ih _ (Memory.write_wf bound m a b h (hcs (a, b) (by simp))) (fun c hc => hcs c (by simp [hc]))

/-- Writing cells leaves every other address alone. -/
theorem Memory.read_writeAll_other (m : Memory) (cs : List Host.Cell) (x : Nat) (h : ∀ c ∈ cs, c.1 ≠ x) :
    Memory.read (Memory.writeAll m cs) x = Memory.read m x := by
  induction cs generalizing m with
  | nil => rfl
  | cons c cs ih =>
    obtain ⟨a, b⟩ := c
    rw [Memory.writeAll_cons, ih _ (fun c hc => h c (by simp [hc])),
      Memory.read_write_other _ _ _ _ (Ne.symm (h (a, b) (by simp)))]

/-- Writing cells at distinct addresses: each reads as written. -/
theorem Memory.read_writeAll_mem (m : Memory) (cs : List Host.Cell) (hnd : (cs.map Prod.fst).Nodup) (c : Host.Cell) (hc : c ∈ cs) :
    Memory.read (Memory.writeAll m cs) c.1 = some c.2 := by
  induction cs generalizing m with
  | nil => simp at hc
  | cons d cs ih =>
    obtain ⟨a, b⟩ := d
    simp only [List.map_cons, List.nodup_cons] at hnd
    rw [Memory.writeAll_cons]
    rcases List.mem_cons.1 hc with rfl | hc'
    · rw [Memory.read_writeAll_other _ _ _ (fun e he heq => hnd.1 (List.mem_map.2 ⟨e, he, heq⟩))]
      simp
    · exact ih _ hnd.2 hc'

/-- A written byte stays written. -/
theorem Memory.write_written (m : Memory) (a x : Nat) (b : Byte) (h : Memory.read m x ≠ none) :
    Memory.read (Memory.write m a b) x ≠ none := by
  rw [Memory.read_write]; split <;> simp_all

theorem Memory.writeAll_written (m : Memory) (cs : List Host.Cell) (x : Nat) (h : Memory.read m x ≠ none) :
    Memory.read (Memory.writeAll m cs) x ≠ none := by
  induction cs generalizing m with
  | nil => exact h
  | cons c cs ih => exact ih _ (Memory.write_written m c.1 x c.2 h)

/-- What reading a list of addresses gives: the byte at each, in order. -/
theorem Memory.readAll_eq_some (m : Memory) (as : List Nat) (bs : List Byte) :
    Memory.readAll m as = some bs ↔ as.map (Memory.read m) = bs.map some := by
  induction as generalizing bs with
  | nil => cases bs <;> simp [Memory.readAll]
  | cons a as ih =>
    simp only [Memory.readAll]
    cases h : Memory.read m a with
    | none => cases bs <;> simp [h]
    | some b =>
      cases h2 : Memory.readAll m as with
      | none =>
        cases bs with
        | nil => simp
        | cons c bs =>
          simp only [reduceCtorEq, List.map_cons, h, List.cons.injEq, Option.some.injEq, false_iff, not_and]
          intro _ h3
          have := (ih bs).2 h3
          simp [h2] at this
      | some ds =>
        have := (ih ds).1 h2
        cases bs with
        | nil => simp
        | cons c bs =>
          simp only [Option.some.injEq, List.cons.injEq, List.map_cons, h]
          constructor
          · rintro ⟨rfl, rfl⟩; exact ⟨rfl, this⟩
          · rintro ⟨rfl, h3⟩
            have h4 := (ih bs).2 h3
            rw [h2] at h4
            exact ⟨rfl, by simpa using h4⟩

/-- Reading a list of addresses fails exactly where one was never written. -/
theorem Memory.readAll_eq_none (m : Memory) (as : List Nat) :
    Memory.readAll m as = none ↔ ∃ a ∈ as, Memory.read m a = none := by
  induction as with
  | nil => simp [Memory.readAll]
  | cons a as ih =>
    simp only [Memory.readAll]
    cases h : Memory.read m a with
    | none => simp [h]
    | some b =>
      cases h2 : Memory.readAll m as with
      | none => simpa [h] using ih.1 h2
      | some ds =>
        have : ¬∃ a ∈ as, Memory.read m a = none := fun hh => by simp [ih.2 hh] at h2
        simpa [h] using this

theorem Memory.readAll_length (m : Memory) (as : List Nat) (bs : List Byte) (h : Memory.readAll m as = some bs) :
    bs.length = as.length := by
  have := congrArg List.length ((Memory.readAll_eq_some m as bs).1 h)
  simpa using this.symm

/-- Storing bytes from index 0 keeps the canonical form where they fit. -/
theorem storeFromZero_wf (bound : Nat) (m : Memory) (bs : List Byte) (h : Memory.wf bound m = true) (hb : bs.length ≤ bound) :
    Memory.wf bound (storeFromZero m bs) = true := by
  refine Memory.writeAll_wf bound m _ h (fun c hc => ?_)
  have := (List.of_mem_zip (a := c.1) (b := c.2) hc).1
  have := List.mem_range.1 this
  omega

/-- Storing bytes from index 0: an index below their number reads as stored, every other as before. -/
theorem read_storeFromZero (m : Memory) (bs : List Byte) (x : Nat) :
    Memory.read (storeFromZero m bs) x = if x < bs.length then bs[x]? else Memory.read m x := by
  split
  · rename_i h
    have hmem : (x, bs[x]) ∈ (List.range bs.length).zip bs := by
      refine List.mem_iff_getElem.2 ⟨x, by simpa using h, by simp⟩
    have hnd : (((List.range bs.length).zip bs).map Prod.fst).Nodup := by
      rw [List.map_fst_zip (by simp)]; exact List.nodup_range
    rw [List.getElem?_eq_getElem h]
    exact Memory.read_writeAll_mem m _ hnd _ hmem
  · rename_i h
    refine Memory.read_writeAll_other m _ x (fun c hc heq => h ?_)
    have := List.mem_range.1 (List.of_mem_zip (a := c.1) (b := c.2) hc).1
    omega

/-- Storing bytes from index 0 and reading them back. -/
theorem readAll_storeFromZero (m : Memory) (bs : List Byte) :
    Memory.readAll (storeFromZero m bs) (List.range bs.length) = some bs := by
  rw [Memory.readAll_eq_some]
  refine List.ext_getElem (by simp) (fun i h1 h2 => ?_)
  have h : i < bs.length := by simpa using h2
  simp [read_storeFromZero, h]

/-- The indices of a ring span lie in the ring. -/
theorem ringIndex_lt (p : Cursor) (k : Nat) : ringIndex p k < Config.ringCapacity := (p + BitVec.ofNat 8 k).isLt

/-- Zero-filling keeps the canonical form. -/
theorem zeroFill_wf (ring : Memory) (p : Cursor) (n : Nat) (h : Memory.wf Config.ringCapacity ring = true) :
    Memory.wf Config.ringCapacity (zeroFill ring p n) = true := by
  refine Memory.writeAll_wf _ _ _ h (fun c hc => ?_)
  simp only [ringSpan, List.map_map, List.mem_map, Function.comp_apply] at hc
  obtain ⟨k, -, rfl⟩ := hc
  exact ringIndex_lt p k

/-- Zero-filling: the ring indices of the span read 0, every other as before (R112). -/
theorem read_zeroFill (ring : Memory) (p : Cursor) (n x : Nat) :
    Memory.read (zeroFill ring p n) x = if x ∈ ringSpan p n then some 0 else Memory.read ring x := by
  unfold zeroFill
  generalize ringSpan p n = as
  induction as generalizing ring with
  | nil => simp
  | cons a as ih =>
    rw [List.map_cons, Memory.writeAll_cons, ih, Memory.read_write]
    by_cases h1 : x ∈ as <;> by_cases h2 : x = a <;> simp [h1, h2]

end Sys2Proof.Machine
end

