-- ==== Sys2Proof/Laws/Parameters.lean ====
section
/-! SUPPORT. What R7 says relates the parameters, and the lengths that follow from them. -/

namespace Sys2Proof.Machine

theorem cursor_width : Cursor = BitVec Config.device.cursorWidth := rfl

theorem ringCapacity_eq_two_pow : Config.device.ringCapacity = 2 ^ Config.device.cursorWidth := rfl

theorem minFrame_eq_header_add_footer : Config.device.minFrame = Config.device.headerLength + Config.device.footerLength := rfl

theorem maxSize_eq_ringCapacity_sub : Config.device.maxSize = Config.device.ringCapacity - Config.device.minFrame := rfl

/-- R142's constraint on the two toggle ids. -/
theorem idPlain_ne_idResync : Config.idPlain ≠ Config.device.idResync := by decide

theorem ringCapacity_eq : Config.ringCapacity = 256 := rfl
theorem headerLength_eq : Config.headerLength = 4 := rfl
theorem minFrame_eq : Config.minFrame = 8 := rfl
theorem replyCapacity_eq : Config.replyCapacity = 256 := rfl
theorem frameCapacity_eq : Config.frameCapacity = 256 := rfl
theorem maxExtracted_eq : Config.maxExtracted = 247 := rfl

@[simp] theorem frameLength_eq (size : U16) : frameLength size = size.toNat + 8 := rfl
@[simp] theorem footerOffset_eq (size : U16) : footerOffset size = size.toNat + 6 := rfl

/-- The size check of R108 refuses exactly the sizes above `MAX_SIZE` (R7, R75). -/
theorem frameLength_overflows (size : U16) : frameLength size > Config.ringCapacity ↔ size.toNat > Config.device.maxSize := by
  rw [frameLength_eq, ringCapacity_eq, show Config.device.maxSize = 248 from rfl]
  omega

/-- A select is one of R7's `NSEL` values. -/
theorem mux_lt_selects (id : U16) : (mux id).toNat < Config.device.selects := by
  unfold mux
  repeat' split
  all_goals decide

end Sys2Proof.Machine
end

