-- ==== Sys2Proof/Laws/State.lean ====
section
/-! SUPPORT. What each named update of the state does to each field. -/

namespace Sys2Proof.Machine

/-! ### `setMode` -/

@[simp] theorem setMode_ring (enc : Bool) (s : State) : (setMode enc s).ring = s.ring := rfl
@[simp] theorem setMode_fs (enc : Bool) (s : State) : (setMode enc s).fs = s.fs := rfl
@[simp] theorem setMode_rb (enc : Bool) (s : State) : (setMode enc s).rb = s.rb := rfl
@[simp] theorem setMode_wptr (enc : Bool) (s : State) : (setMode enc s).wptr = s.wptr := rfl
@[simp] theorem setMode_rptr (enc : Bool) (s : State) : (setMode enc s).rptr = s.rptr := rfl
@[simp] theorem setMode_wSnap (enc : Bool) (s : State) : (setMode enc s).wSnap = s.wSnap := rfl
@[simp] theorem setMode_enc (enc : Bool) (s : State) : (setMode enc s).enc = enc := rfl
@[simp] theorem setMode_result (enc : Bool) (s : State) : (setMode enc s).result = s.result := rfl
@[simp] theorem setMode_cmdId (enc : Bool) (s : State) : (setMode enc s).cmdId = s.cmdId := rfl
@[simp] theorem setMode_fsize (enc : Bool) (s : State) : (setMode enc s).fsize = s.fsize := rfl
@[simp] theorem setMode_sel (enc : Bool) (s : State) : (setMode enc s).sel = s.sel := rfl
@[simp] theorem setMode_busy (enc : Bool) (s : State) : (setMode enc s).busy = s.busy := rfl
@[simp] theorem setMode_badop (enc : Bool) (s : State) : (setMode enc s).badop = s.badop := rfl
@[simp] theorem setMode_seqerr (enc : Bool) (s : State) : (setMode enc s).seqerr = s.seqerr := rfl
@[simp] theorem setMode_tx (enc : Bool) (s : State) : (setMode enc s).tx = s.tx := rfl
@[simp] theorem setMode_faults (enc : Bool) (s : State) : (setMode enc s).faults = s.faults := rfl
@[simp] theorem setMode_rdata (enc : Bool) (s : State) : (setMode enc s).rdata = s.rdata := rfl
@[simp] theorem setMode_draws (enc : Bool) (s : State) : (setMode enc s).draws = s.draws := rfl
@[simp] theorem setMode_script (enc : Bool) (s : State) : (setMode enc s).script = s.script := rfl

/-! ### `latch` -/

@[simp] theorem latch_ring (id : U16) (sel : BitVec 4) (size : U16) (s : State) : (latch id sel size s).ring = s.ring := rfl
@[simp] theorem latch_fs (id : U16) (sel : BitVec 4) (size : U16) (s : State) : (latch id sel size s).fs = s.fs := rfl
@[simp] theorem latch_rb (id : U16) (sel : BitVec 4) (size : U16) (s : State) : (latch id sel size s).rb = s.rb := rfl
@[simp] theorem latch_wptr (id : U16) (sel : BitVec 4) (size : U16) (s : State) : (latch id sel size s).wptr = s.wptr := rfl
@[simp] theorem latch_rptr (id : U16) (sel : BitVec 4) (size : U16) (s : State) : (latch id sel size s).rptr = s.rptr := rfl
@[simp] theorem latch_wSnap (id : U16) (sel : BitVec 4) (size : U16) (s : State) : (latch id sel size s).wSnap = s.wSnap := rfl
@[simp] theorem latch_enc (id : U16) (sel : BitVec 4) (size : U16) (s : State) : (latch id sel size s).enc = s.enc := rfl
@[simp] theorem latch_result (id : U16) (sel : BitVec 4) (size : U16) (s : State) : (latch id sel size s).result = .frameOk := rfl
@[simp] theorem latch_cmdId (id : U16) (sel : BitVec 4) (size : U16) (s : State) : (latch id sel size s).cmdId = id := rfl
@[simp] theorem latch_fsize (id : U16) (sel : BitVec 4) (size : U16) (s : State) : (latch id sel size s).fsize = size := rfl
@[simp] theorem latch_sel (id : U16) (sel : BitVec 4) (size : U16) (s : State) : (latch id sel size s).sel = sel := rfl
@[simp] theorem latch_busy (id : U16) (sel : BitVec 4) (size : U16) (s : State) : (latch id sel size s).busy = (s.busy || sel != 0) := rfl
@[simp] theorem latch_badop (id : U16) (sel : BitVec 4) (size : U16) (s : State) : (latch id sel size s).badop = s.badop := rfl
@[simp] theorem latch_seqerr (id : U16) (sel : BitVec 4) (size : U16) (s : State) : (latch id sel size s).seqerr = s.seqerr := rfl
@[simp] theorem latch_tx (id : U16) (sel : BitVec 4) (size : U16) (s : State) : (latch id sel size s).tx = s.tx := rfl
@[simp] theorem latch_faults (id : U16) (sel : BitVec 4) (size : U16) (s : State) : (latch id sel size s).faults = s.faults := rfl
@[simp] theorem latch_rdata (id : U16) (sel : BitVec 4) (size : U16) (s : State) : (latch id sel size s).rdata = s.rdata := rfl
@[simp] theorem latch_draws (id : U16) (sel : BitVec 4) (size : U16) (s : State) : (latch id sel size s).draws = s.draws := rfl
@[simp] theorem latch_script (id : U16) (sel : BitVec 4) (size : U16) (s : State) : (latch id sel size s).script = s.script := rfl

/-! ### `raiseFault` -/

@[simp] theorem raiseFault_ring (reason : Fault) (s : State) : (raiseFault reason s).ring = s.ring := rfl
@[simp] theorem raiseFault_fs (reason : Fault) (s : State) : (raiseFault reason s).fs = s.fs := rfl
@[simp] theorem raiseFault_rb (reason : Fault) (s : State) : (raiseFault reason s).rb = s.rb := rfl
@[simp] theorem raiseFault_wptr (reason : Fault) (s : State) : (raiseFault reason s).wptr = s.wptr := rfl
@[simp] theorem raiseFault_rptr (reason : Fault) (s : State) : (raiseFault reason s).rptr = s.rptr := rfl
@[simp] theorem raiseFault_wSnap (reason : Fault) (s : State) : (raiseFault reason s).wSnap = s.wSnap := rfl
@[simp] theorem raiseFault_enc (reason : Fault) (s : State) : (raiseFault reason s).enc = s.enc := rfl
@[simp] theorem raiseFault_result (reason : Fault) (s : State) : (raiseFault reason s).result = s.result := rfl
@[simp] theorem raiseFault_cmdId (reason : Fault) (s : State) : (raiseFault reason s).cmdId = s.cmdId := rfl
@[simp] theorem raiseFault_fsize (reason : Fault) (s : State) : (raiseFault reason s).fsize = s.fsize := rfl
@[simp] theorem raiseFault_sel (reason : Fault) (s : State) : (raiseFault reason s).sel = s.sel := rfl
@[simp] theorem raiseFault_busy (reason : Fault) (s : State) : (raiseFault reason s).busy = s.busy := rfl
@[simp] theorem raiseFault_badop (reason : Fault) (s : State) : (raiseFault reason s).badop = (s.badop || reason.setsBadop) := rfl
@[simp] theorem raiseFault_seqerr (reason : Fault) (s : State) : (raiseFault reason s).seqerr = (s.seqerr || reason.setsSeqerr) := rfl
@[simp] theorem raiseFault_tx (reason : Fault) (s : State) : (raiseFault reason s).tx = s.tx := rfl
@[simp] theorem raiseFault_faults (reason : Fault) (s : State) : (raiseFault reason s).faults = s.faults ++ [reason] := rfl
@[simp] theorem raiseFault_rdata (reason : Fault) (s : State) : (raiseFault reason s).rdata = s.rdata := rfl
@[simp] theorem raiseFault_draws (reason : Fault) (s : State) : (raiseFault reason s).draws = s.draws := rfl
@[simp] theorem raiseFault_script (reason : Fault) (s : State) : (raiseFault reason s).script = s.script := rfl

/-! ### `returnWord` -/

@[simp] theorem returnWord_ring (v : Word) (s : State) : (returnWord v s).ring = s.ring := rfl
@[simp] theorem returnWord_fs (v : Word) (s : State) : (returnWord v s).fs = s.fs := rfl
@[simp] theorem returnWord_rb (v : Word) (s : State) : (returnWord v s).rb = s.rb := rfl
@[simp] theorem returnWord_wptr (v : Word) (s : State) : (returnWord v s).wptr = s.wptr := rfl
@[simp] theorem returnWord_rptr (v : Word) (s : State) : (returnWord v s).rptr = s.rptr := rfl
@[simp] theorem returnWord_wSnap (v : Word) (s : State) : (returnWord v s).wSnap = s.wSnap := rfl
@[simp] theorem returnWord_enc (v : Word) (s : State) : (returnWord v s).enc = s.enc := rfl
@[simp] theorem returnWord_result (v : Word) (s : State) : (returnWord v s).result = s.result := rfl
@[simp] theorem returnWord_cmdId (v : Word) (s : State) : (returnWord v s).cmdId = s.cmdId := rfl
@[simp] theorem returnWord_fsize (v : Word) (s : State) : (returnWord v s).fsize = s.fsize := rfl
@[simp] theorem returnWord_sel (v : Word) (s : State) : (returnWord v s).sel = s.sel := rfl
@[simp] theorem returnWord_busy (v : Word) (s : State) : (returnWord v s).busy = s.busy := rfl
@[simp] theorem returnWord_badop (v : Word) (s : State) : (returnWord v s).badop = s.badop := rfl
@[simp] theorem returnWord_seqerr (v : Word) (s : State) : (returnWord v s).seqerr = s.seqerr := rfl
@[simp] theorem returnWord_tx (v : Word) (s : State) : (returnWord v s).tx = s.tx := rfl
@[simp] theorem returnWord_faults (v : Word) (s : State) : (returnWord v s).faults = s.faults := rfl
@[simp] theorem returnWord_rdata (v : Word) (s : State) : (returnWord v s).rdata = v := rfl
@[simp] theorem returnWord_draws (v : Word) (s : State) : (returnWord v s).draws = s.draws := rfl
@[simp] theorem returnWord_script (v : Word) (s : State) : (returnWord v s).script = s.script := rfl

/-! ### `consumeFrame` -/

@[simp] theorem consumeFrame_ring (p : Cursor) (size : U16) (s : State) : (consumeFrame p size s).ring = zeroFill s.ring p (size.toNat + 8) := rfl
@[simp] theorem consumeFrame_fs (p : Cursor) (size : U16) (s : State) : (consumeFrame p size s).fs = s.fs := rfl
@[simp] theorem consumeFrame_rb (p : Cursor) (size : U16) (s : State) : (consumeFrame p size s).rb = s.rb := rfl
@[simp] theorem consumeFrame_wptr (p : Cursor) (size : U16) (s : State) : (consumeFrame p size s).wptr = s.wptr := rfl
@[simp] theorem consumeFrame_rptr (p : Cursor) (size : U16) (s : State) : (consumeFrame p size s).rptr = p + BitVec.ofNat 8 (size.toNat + 8) := rfl
@[simp] theorem consumeFrame_wSnap (p : Cursor) (size : U16) (s : State) : (consumeFrame p size s).wSnap = s.wSnap := rfl
@[simp] theorem consumeFrame_enc (p : Cursor) (size : U16) (s : State) : (consumeFrame p size s).enc = s.enc := rfl
@[simp] theorem consumeFrame_result (p : Cursor) (size : U16) (s : State) : (consumeFrame p size s).result = s.result := rfl
@[simp] theorem consumeFrame_cmdId (p : Cursor) (size : U16) (s : State) : (consumeFrame p size s).cmdId = s.cmdId := rfl
@[simp] theorem consumeFrame_fsize (p : Cursor) (size : U16) (s : State) : (consumeFrame p size s).fsize = s.fsize := rfl
@[simp] theorem consumeFrame_sel (p : Cursor) (size : U16) (s : State) : (consumeFrame p size s).sel = s.sel := rfl
@[simp] theorem consumeFrame_busy (p : Cursor) (size : U16) (s : State) : (consumeFrame p size s).busy = s.busy := rfl
@[simp] theorem consumeFrame_badop (p : Cursor) (size : U16) (s : State) : (consumeFrame p size s).badop = s.badop := rfl
@[simp] theorem consumeFrame_seqerr (p : Cursor) (size : U16) (s : State) : (consumeFrame p size s).seqerr = s.seqerr := rfl
@[simp] theorem consumeFrame_tx (p : Cursor) (size : U16) (s : State) : (consumeFrame p size s).tx = s.tx := rfl
@[simp] theorem consumeFrame_faults (p : Cursor) (size : U16) (s : State) : (consumeFrame p size s).faults = s.faults := rfl
@[simp] theorem consumeFrame_rdata (p : Cursor) (size : U16) (s : State) : (consumeFrame p size s).rdata = s.rdata := rfl
@[simp] theorem consumeFrame_draws (p : Cursor) (size : U16) (s : State) : (consumeFrame p size s).draws = s.draws := rfl
@[simp] theorem consumeFrame_script (p : Cursor) (size : U16) (s : State) : (consumeFrame p size s).script = s.script := rfl

/-! ### `sendReply` -/

@[simp] theorem sendReply_ring (n : U16) (payload : List Byte) (s : State) : (sendReply n payload s).ring = s.ring := rfl
@[simp] theorem sendReply_fs (n : U16) (payload : List Byte) (s : State) : (sendReply n payload s).fs = s.fs := rfl
@[simp] theorem sendReply_rb (n : U16) (payload : List Byte) (s : State) : (sendReply n payload s).rb = (if s.enc then storeFromZero s.rb (applyMode s.enc payload) else s.rb) := rfl
@[simp] theorem sendReply_wptr (n : U16) (payload : List Byte) (s : State) : (sendReply n payload s).wptr = s.wptr := rfl
@[simp] theorem sendReply_rptr (n : U16) (payload : List Byte) (s : State) : (sendReply n payload s).rptr = s.rptr := rfl
@[simp] theorem sendReply_wSnap (n : U16) (payload : List Byte) (s : State) : (sendReply n payload s).wSnap = s.wSnap := rfl
@[simp] theorem sendReply_enc (n : U16) (payload : List Byte) (s : State) : (sendReply n payload s).enc = s.enc := rfl
@[simp] theorem sendReply_result (n : U16) (payload : List Byte) (s : State) : (sendReply n payload s).result = s.result := rfl
@[simp] theorem sendReply_cmdId (n : U16) (payload : List Byte) (s : State) : (sendReply n payload s).cmdId = s.cmdId := rfl
@[simp] theorem sendReply_fsize (n : U16) (payload : List Byte) (s : State) : (sendReply n payload s).fsize = s.fsize := rfl
@[simp] theorem sendReply_sel (n : U16) (payload : List Byte) (s : State) : (sendReply n payload s).sel = s.sel := rfl
@[simp] theorem sendReply_busy (n : U16) (payload : List Byte) (s : State) : (sendReply n payload s).busy = s.busy := rfl
@[simp] theorem sendReply_badop (n : U16) (payload : List Byte) (s : State) : (sendReply n payload s).badop = s.badop := rfl
@[simp] theorem sendReply_seqerr (n : U16) (payload : List Byte) (s : State) : (sendReply n payload s).seqerr = s.seqerr := rfl
@[simp] theorem sendReply_tx (n : U16) (payload : List Byte) (s : State) : (sendReply n payload s).tx = s.tx ++ replyFrame s.enc n (applyMode s.enc payload) := rfl
@[simp] theorem sendReply_faults (n : U16) (payload : List Byte) (s : State) : (sendReply n payload s).faults = s.faults := rfl
@[simp] theorem sendReply_rdata (n : U16) (payload : List Byte) (s : State) : (sendReply n payload s).rdata = s.rdata := rfl
@[simp] theorem sendReply_draws (n : U16) (payload : List Byte) (s : State) : (sendReply n payload s).draws = s.draws := rfl
@[simp] theorem sendReply_script (n : U16) (payload : List Byte) (s : State) : (sendReply n payload s).script = s.script := rfl

/-! ### `State.withScript` -/

@[simp] theorem withScript_ring (s : State) (script : List Request) : (s.withScript script).ring = s.ring := rfl
@[simp] theorem withScript_fs (s : State) (script : List Request) : (s.withScript script).fs = s.fs := rfl
@[simp] theorem withScript_rb (s : State) (script : List Request) : (s.withScript script).rb = s.rb := rfl
@[simp] theorem withScript_wptr (s : State) (script : List Request) : (s.withScript script).wptr = s.wptr := rfl
@[simp] theorem withScript_rptr (s : State) (script : List Request) : (s.withScript script).rptr = s.rptr := rfl
@[simp] theorem withScript_wSnap (s : State) (script : List Request) : (s.withScript script).wSnap = s.wSnap := rfl
@[simp] theorem withScript_enc (s : State) (script : List Request) : (s.withScript script).enc = s.enc := rfl
@[simp] theorem withScript_result (s : State) (script : List Request) : (s.withScript script).result = s.result := rfl
@[simp] theorem withScript_cmdId (s : State) (script : List Request) : (s.withScript script).cmdId = s.cmdId := rfl
@[simp] theorem withScript_fsize (s : State) (script : List Request) : (s.withScript script).fsize = s.fsize := rfl
@[simp] theorem withScript_sel (s : State) (script : List Request) : (s.withScript script).sel = s.sel := rfl
@[simp] theorem withScript_busy (s : State) (script : List Request) : (s.withScript script).busy = s.busy := rfl
@[simp] theorem withScript_badop (s : State) (script : List Request) : (s.withScript script).badop = s.badop := rfl
@[simp] theorem withScript_seqerr (s : State) (script : List Request) : (s.withScript script).seqerr = s.seqerr := rfl
@[simp] theorem withScript_tx (s : State) (script : List Request) : (s.withScript script).tx = s.tx := rfl
@[simp] theorem withScript_faults (s : State) (script : List Request) : (s.withScript script).faults = s.faults := rfl
@[simp] theorem withScript_rdata (s : State) (script : List Request) : (s.withScript script).rdata = s.rdata := rfl
@[simp] theorem withScript_draws (s : State) (script : List Request) : (s.withScript script).draws = s.draws := rfl
@[simp] theorem withScript_script (s : State) (script : List Request) : (s.withScript script).script = script := rfl

/-! ### The state after reset -/

@[simp] theorem reset_ring : State.reset.ring = [] := rfl
@[simp] theorem reset_fs : State.reset.fs = [] := rfl
@[simp] theorem reset_rb : State.reset.rb = [] := rfl
@[simp] theorem reset_wptr : State.reset.wptr = 0 := rfl
@[simp] theorem reset_rptr : State.reset.rptr = 0 := rfl
@[simp] theorem reset_wSnap : State.reset.wSnap = 0 := rfl
@[simp] theorem reset_enc : State.reset.enc = true := rfl
@[simp] theorem reset_result : State.reset.result = .idle := rfl
@[simp] theorem reset_cmdId : State.reset.cmdId = 0 := rfl
@[simp] theorem reset_fsize : State.reset.fsize = 0 := rfl
@[simp] theorem reset_sel : State.reset.sel = 0 := rfl
@[simp] theorem reset_busy : State.reset.busy = false := rfl
@[simp] theorem reset_badop : State.reset.badop = false := rfl
@[simp] theorem reset_seqerr : State.reset.seqerr = false := rfl
@[simp] theorem reset_tx : State.reset.tx = [] := rfl
@[simp] theorem reset_faults : State.reset.faults = [] := rfl
@[simp] theorem reset_rdata : State.reset.rdata = 0 := rfl
@[simp] theorem reset_draws : State.reset.draws = 0 := rfl
@[simp] theorem reset_script : State.reset.script = [] := rfl

end Sys2Proof.Machine
end

