-- ==== Sys2Proof/Laws/Scanner.lean ====
section
/-! SUPPORT. Ring positions, and what the scan finds. -/

namespace Sys2Proof.Machine

@[simp] theorem ringIndex_zero (p : Cursor) : ringIndex p 0 = p.toNat := by simp [ringIndex]

/-- A position relative to a moved cursor. -/
theorem ringIndex_add (p : Cursor) (j k : Nat) : ringIndex (p + BitVec.ofNat 8 j) k = ringIndex p (j + k) := by
  simp [ringIndex, BitVec.ofNat_add, BitVec.add_assoc]

theorem ringByte_add (ring : Memory) (p : Cursor) (j k : Nat) :
    ringByte ring (p + BitVec.ofNat 8 j) k = ringByte ring p (j + k) := by
  simp [ringByte, ringIndex_add]

theorem ringByte_succ (ring : Memory) (p : Cursor) (k : Nat) : ringByte ring (p + 1) k = ringByte ring p (k + 1) := by
  have := ringByte_add ring p 1 k
  rwa [Nat.add_comm 1 k] at this

/-- Different places below the capacity are different ring indices. -/
theorem ringIndex_inj (p : Cursor) (j k : Nat) (hj : j < 256) (hk : k < 256) (h : ringIndex p j = ringIndex p k) : j = k := by
  have h1 : p + BitVec.ofNat 8 j = p + BitVec.ofNat 8 k := BitVec.eq_of_toNat_eq h
  have h2 : BitVec.ofNat 8 j = BitVec.ofNat 8 k := by simpa using h1
  have h3 := congrArg BitVec.toNat h2
  simp only [BitVec.toNat_ofNat] at h3
  omega

theorem ringSpan_length (p : Cursor) (n : Nat) : (ringSpan p n).length = n := by simp [ringSpan]

theorem mem_ringSpan (p : Cursor) (n x : Nat) : x ∈ ringSpan p n ↔ ∃ k, k < n ∧ ringIndex p k = x := by
  simp [ringSpan]

theorem pendingCount_self (p : Cursor) : pendingCount p p = 0 := by simp [pendingCount]

theorem pendingCount_lt (p w : Cursor) : pendingCount p w < 256 := (w - p).isLt

theorem pendingCount_eq_zero (p w : Cursor) : pendingCount p w = 0 ↔ p = w := by
  constructor
  · intro h
    have : w - p = 0#8 := BitVec.eq_of_toNat_eq (by simpa [pendingCount] using h)
    bv_omega
  · rintro rfl; exact pendingCount_self p

/-- Walking the pending count forward from the read cursor reaches the write cursor. -/
theorem add_pendingCount (p w : Cursor) : p + BitVec.ofNat 8 (pendingCount p w) = w := by
  simp only [pendingCount, BitVec.ofNat_toNat, BitVec.setWidth_eq]
  bv_omega

/-- The bytes pending from a cursor moved `k` places towards `w`. -/
theorem pendingCount_add (p w : Cursor) (k : Nat) (hk : k ≤ pendingCount p w) :
    pendingCount (p + BitVec.ofNat 8 k) w = pendingCount p w - k := by
  have := pendingCount_lt p w
  simp only [pendingCount] at *
  have : (BitVec.ofNat 8 k).toNat = k := by simp; omega
  bv_omega

/-- What a scan with `n` bytes pending passes over at `j`: a byte that is no start marker, or a start marker with a smallest frame pending
and no second marker after it (R104, R106). -/
def passedOver (ring : Memory) (p : Cursor) (n j : Nat) : Prop :=
  ∃ b, ringByte ring p j = some b ∧
    (b ≠ Config.device.markS0 ∨ (8 ≤ n - j ∧ ∃ c, ringByte ring p (j + 1) = some c ∧ c ≠ Config.device.markS1))

theorem passedOver_succ (ring : Memory) (p : Cursor) (n j : Nat) :
    passedOver ring (p + 1) n j ↔ passedOver ring p (n + 1) (j + 1) := by
  have h : n + 1 - (j + 1) = n - j := by omega
  simp only [passedOver, ringByte_succ, h]

/-- The four results of a scan, as facts about the ring. -/
def scanFinds (ring : Memory) (p : Cursor) (n : Nat) : HeaderScan → Prop
  | .exhausted => ∀ j, j < n → passedOver ring p n j
  | .tooShort q => ∃ k, k < n ∧ q = p + BitVec.ofNat 8 k ∧ ringByte ring p k = some Config.device.markS0 ∧ n - k < 8 ∧
      ∀ j, j < k → passedOver ring p n j
  | .header q avail => ∃ k, k < n ∧ q = p + BitVec.ofNat 8 k ∧ avail = n - k ∧ 8 ≤ n - k ∧
      ringByte ring p k = some Config.device.markS0 ∧ ringByte ring p (k + 1) = some Config.device.markS1 ∧
      ∀ j, j < k → passedOver ring p n j
  | .unwritten => ∃ k, k < n ∧ ringByte ring p k = none

/-- A scan one byte on, told from the byte before. -/
theorem scanFinds_step (ring : Memory) (p : Cursor) (n : Nat) (r : HeaderScan) (h0 : passedOver ring p (n + 1) 0)
    (h : scanFinds ring (p + 1) n r) : scanFinds ring p (n + 1) r := by
  have step : ∀ k, (∀ j, j < k → passedOver ring (p + 1) n j) → ∀ j, j < k + 1 → passedOver ring p (n + 1) j := by
    intro k hk j hj
    cases j with
    | zero => exact h0
    | succ j => exact (passedOver_succ ring p n j).1 (hk j (by omega))
  have pos : ∀ k, p + 1 + BitVec.ofNat 8 k = p + BitVec.ofNat 8 (k + 1) := by
    intro k
    rw [BitVec.ofNat_add, BitVec.add_assoc, BitVec.add_comm 1]
    rfl
  cases r with
  | exhausted => exact step n h
  | tooShort q =>
    obtain ⟨k, hk, hq, hb, hn, hj⟩ := h
    exact ⟨k + 1, by omega, hq.trans (pos k), by rwa [← ringByte_succ], by omega, step k hj⟩
  | header q avail =>
    obtain ⟨k, hk, hq, ha, hn, hb, hc, hj⟩ := h
    refine ⟨k + 1, by omega, hq.trans (pos k), by omega, by omega, by rwa [← ringByte_succ], ?_, step k hj⟩
    rwa [← ringByte_succ]
  | unwritten =>
    obtain ⟨k, hk, hb⟩ := h
    exact ⟨k + 1, by omega, by rwa [← ringByte_succ]⟩

/-- What a scan finds, said once. -/
theorem scanHeader_finds (ring : Memory) (p : Cursor) (n : Nat) : scanFinds ring p n (scanHeader ring p n) := by
  induction n generalizing p with
  | zero => intro j hj; omega
  | succ n ih =>
    simp only [scanHeader]
    cases h0 : ringByte ring p 0 with
    | none => exact ⟨0, by omega, h0⟩
    | some b =>
      dsimp only
      by_cases hb : b = Config.device.markS0
      · subst hb
        have h8 : Config.minFrame = 8 := rfl
        simp only [ne_eq, not_true_eq_false, if_false]
        by_cases hn : n + 1 < Config.minFrame
        · rw [if_pos hn]
          exact ⟨0, by omega, by simp, h0, by omega, by intro j hj; omega⟩
        · rw [if_neg hn]
          cases h1 : ringByte ring p 1 with
          | none => exact ⟨1, by omega, h1⟩
          | some c =>
            dsimp only
            by_cases hc : c = Config.device.markS1
            · rw [if_pos hc]
              exact ⟨0, by omega, by simp, by omega, by omega, h0, by rw [h1, hc], by intro j hj; omega⟩
            · rw [if_neg hc]
              exact scanFinds_step ring p n _ ⟨_, h0, .inr ⟨by omega, c, h1, hc⟩⟩ (ih _)
      · simp only [ne_eq, hb, not_false_eq_true, if_true]
        exact scanFinds_step ring p n _ ⟨b, h0, .inl hb⟩ (ih _)

/-- A passed-over place is no candidate of R301. -/
theorem passedOver_not_candidate (s : State) (j : Nat) (h : passedOver s.ring s.rptr (pendingLength s) j) : ¬candidate s j := by
  rintro ⟨-, h0, h1⟩
  obtain ⟨b, hb, hor⟩ := h
  rw [pendingByte, hb] at h0
  rcases hor with hne | ⟨h8, c, hc, hne⟩
  · exact hne (by simpa using h0)
  · rcases h1 with hlt | hc'
    · omega
    · rw [pendingByte, hc] at hc'
      exact hne (by simpa using hc')

/-- The seven ways phase 1 of a POLL ends, said once (R101 to R110, R301): each with the facts about the ring that lead to it. -/
inductive PhaseOne (s : State) : ScanOutcome → Prop where
  | noData (h : s.rptr = s.wptr) : PhaseOne s (.stop .noData s.rptr)
  | noMarker (h : s.rptr ≠ s.wptr) (hj : ∀ j, j < pendingLength s → passedOver s.ring s.rptr (pendingLength s) j) :
      PhaseOne s (.stop .noMarker s.wptr)
  | tooShort (k : Nat) (hc : firstCandidate s k) (hn : pendingLength s - k < 8) :
      PhaseOne s (.stop .incomplete (s.rptr + BitVec.ofNat 8 k))
  | overflow (k : Nat) (size : U16) (hc : firstCandidate s k) (hn : 8 ≤ pendingLength s - k) (hs : sizeAt s k size)
      (ho : size.toNat + 8 > Config.ringCapacity) : PhaseOne s (.stop .sizeOverflow s.wptr)
  | incomplete (k : Nat) (size : U16) (hc : firstCandidate s k) (hn : 8 ≤ pendingLength s - k) (hs : sizeAt s k size)
      (ho : size.toNat + 8 ≤ Config.ringCapacity) (hl : pendingLength s - k < size.toNat + 8) :
      PhaseOne s (.stop .incomplete (s.rptr + BitVec.ofNat 8 k))
  | badFooter (k : Nat) (size : U16) (hc : firstCandidate s k) (hn : 8 ≤ pendingLength s - k) (hs : sizeAt s k size)
      (ho : size.toNat + 8 ≤ Config.ringCapacity) (hl : size.toNat + 8 ≤ pendingLength s - k) (hf : ¬footerAt s k size) :
      PhaseOne s (.stop .badFooter s.wptr)
  | frame (k : Nat) (size : U16) (hc : firstCandidate s k) (hn : 8 ≤ pendingLength s - k) (hs : sizeAt s k size)
      (ho : size.toNat + 8 ≤ Config.ringCapacity) (hl : size.toNat + 8 ≤ pendingLength s - k) (hf : footerAt s k size) :
      PhaseOne s (.frame (s.rptr + BitVec.ofNat 8 k) size)
  | unwritten (k : Nat) (hk : k < pendingLength s) (hb : pendingByte s k = none) : PhaseOne s .unwritten

theorem scanFrame_phaseOne (s : State) : PhaseOne s (scanFrame s.ring s.rptr s.wptr) := by
  unfold scanFrame
  by_cases h0 : s.rptr = s.wptr
  · rw [if_pos h0]; exact .noData h0
  · rw [if_neg h0]
    have hf := scanHeader_finds s.ring s.rptr (pendingCount s.rptr s.wptr)
    have first : ∀ k, k < pendingLength s → ringByte s.ring s.rptr k = some Config.device.markS0 →
        (pendingLength s - k < 8 ∨ ringByte s.ring s.rptr (k + 1) = some Config.device.markS1) →
        (∀ j, j < k → passedOver s.ring s.rptr (pendingLength s) j) → firstCandidate s k :=
      fun k hk hb hor hj => ⟨⟨hk, hb, hor⟩, fun j hjk => passedOver_not_candidate s j (hj j hjk)⟩
    revert hf
    cases hs : scanHeader s.ring s.rptr (pendingCount s.rptr s.wptr) with
    | exhausted => exact fun hf => .noMarker h0 hf
    | tooShort q =>
      rintro ⟨k, hk, rfl, hb, hn, hj⟩
      exact .tooShort k (first k hk hb (.inl hn) hj) hn
    | unwritten =>
      rintro ⟨k, hk, hb⟩
      exact .unwritten k hk hb
    | header q avail =>
      rintro ⟨k, hk, rfl, rfl, hn, hb, hc, hj⟩
      have hfc := first k hk hb (.inr hc) hj
      change 8 ≤ pendingLength s - k at hn
      change k < pendingLength s at hk
      simp only [checkFrame, ringByte_add]
      cases h2 : ringByte s.ring s.rptr (k + 2) with
      | none => exact .unwritten (k + 2) (by omega) h2
      | some lo =>
        cases h3 : ringByte s.ring s.rptr (k + 3) with
        | none => exact .unwritten (k + 3) (by omega) h3
        | some hi =>
          have hsz : sizeAt s k (le16 lo hi) := ⟨lo, hi, h2, h3, rfl⟩
          dsimp only
          revert hsz
          generalize le16 lo hi = size
          intro hsz
          unfold checkSize
          by_cases ho : frameLength size > Config.ringCapacity
          · rw [if_pos ho]; exact .overflow k size hfc hn hsz ho
          · rw [if_neg ho]
            have ho' : size.toNat + 8 ≤ Config.ringCapacity := Nat.le_of_not_lt ho
            change PhaseOne s (if pendingLength s - k < frameLength size then _ else _)
            by_cases hl : pendingLength s - k < frameLength size
            · rw [if_pos hl]; exact .incomplete k size hfc hn hsz ho' hl
            · rw [if_neg hl]
              have hl' : size.toNat + 8 ≤ pendingLength s - k := Nat.le_of_not_lt hl
              simp only [checkFooter, footerOffset_eq, ringByte_add]
              cases h6 : ringByte s.ring s.rptr (k + (size.toNat + 6)) with
              | none => exact .unwritten (k + (size.toNat + 6)) (by omega) h6
              | some f0 =>
                cases h7 : ringByte s.ring s.rptr (k + (size.toNat + 6 + 1)) with
                | none => exact .unwritten (k + (size.toNat + 6 + 1)) (by omega) h7
                | some f1 =>
                  have e6 : pendingByte s (k + size.toNat + 6) = some f0 := by rw [pendingByte, Nat.add_assoc, h6]
                  have e7 : pendingByte s (k + size.toNat + 7) = some f1 := by rw [pendingByte, Nat.add_assoc, ← h7]
                  dsimp only
                  by_cases hm : f0 ≠ Config.device.markF0 ∨ f1 ≠ Config.device.markF1
                  · rw [if_pos hm]
                    refine .badFooter k size hfc hn hsz ho' hl' ?_
                    rintro ⟨g0, g1⟩
                    rw [e6] at g0; rw [e7] at g1
                    rcases hm with hm | hm
                    · exact hm (by simpa using g0)
                    · exact hm (by simpa using g1)
                  · rw [if_neg hm]
                    have hm0 : f0 = Config.device.markF0 := by by_contra hh; exact hm (.inl hh)
                    have hm1 : f1 = Config.device.markF1 := by by_contra hh; exact hm (.inr hh)
                    exact .frame k size hfc hn hsz ho' hl' ⟨by rw [e6, hm0], by rw [e7, hm1]⟩

end Sys2Proof.Machine
end

