-- ==== Sys2Proof/Laws/Poll.lean ====
section
/-! SUPPORT. The cipher's shape, what interpreting a frame does to each field, and what a POLL can do, said once. -/

namespace Sys2Proof.Machine

@[simp] theorem obfFrom_length (i : Nat) (bs : List Byte) : (obfFrom i bs).length = bs.length := by
  induction bs generalizing i with
  | nil => rfl
  | cons b bs ih => simp [obfFrom, ih]

@[simp] theorem applyMode_length (enc : Bool) (bs : List Byte) : (applyMode enc bs).length = bs.length := by
  cases enc <;> simp [applyMode]

/-- Each byte of a region is transformed at its own position (R140). -/
theorem getElem?_obfFrom (i : Nat) (bs : List Byte) (k : Nat) : (obfFrom i bs)[k]? = bs[k]?.map (obf (i + k)) := by
  induction bs generalizing i k with
  | nil => simp [obfFrom]
  | cons b bs ih =>
    cases k with
    | zero => simp [obfFrom]
    | succ k => simp only [obfFrom, List.getElem?_cons_succ, ih]; congr 2; omega

/-! ### `interpretFrame`, field by field -/

section
variable (size : U16) (raw : List Byte) (s : State)

@[simp] theorem interpretFrame_ring : (interpretFrame size raw s).ring = s.ring := by
  simp only [interpretFrame]; split <;> rfl
@[simp] theorem interpretFrame_fs :
    (interpretFrame size raw s).fs = storeFromZero s.fs (clearedRegion s.enc raw) := by
  simp only [interpretFrame]; split <;> rfl
@[simp] theorem interpretFrame_rb : (interpretFrame size raw s).rb = s.rb := by
  simp only [interpretFrame]; split <;> rfl
@[simp] theorem interpretFrame_wptr : (interpretFrame size raw s).wptr = s.wptr := by
  simp only [interpretFrame]; split <;> rfl
@[simp] theorem interpretFrame_rptr : (interpretFrame size raw s).rptr = s.rptr := by
  simp only [interpretFrame]; split <;> rfl
@[simp] theorem interpretFrame_wSnap : (interpretFrame size raw s).wSnap = s.wSnap := by
  simp only [interpretFrame]; split <;> rfl
@[simp] theorem interpretFrame_enc : (interpretFrame size raw s).enc = toggledMode (regionId raw) s.enc := by
  simp only [interpretFrame]; split <;> rfl
@[simp] theorem interpretFrame_badop : (interpretFrame size raw s).badop = s.badop := by
  simp only [interpretFrame]; split <;> rfl
@[simp] theorem interpretFrame_seqerr : (interpretFrame size raw s).seqerr = s.seqerr := by
  simp only [interpretFrame]; split <;> rfl
@[simp] theorem interpretFrame_tx : (interpretFrame size raw s).tx = s.tx := by
  simp only [interpretFrame]; split <;> rfl
@[simp] theorem interpretFrame_faults : (interpretFrame size raw s).faults = s.faults := by
  simp only [interpretFrame]; split <;> rfl
@[simp] theorem interpretFrame_rdata : (interpretFrame size raw s).rdata = s.rdata := by
  simp only [interpretFrame]; split <;> rfl
@[simp] theorem interpretFrame_draws : (interpretFrame size raw s).draws = s.draws := by
  simp only [interpretFrame]; split <;> rfl
@[simp] theorem interpretFrame_script : (interpretFrame size raw s).script = s.script := by
  simp only [interpretFrame]; split <;> rfl

/-- A frame whose CRC matches is latched (R180). -/
theorem interpretFrame_ok (h : crcMatches size.toNat (clearedRegion s.enc raw) = true) :
    interpretFrame size raw s =
      latch (regionId (clearedRegion s.enc raw)) (mux (regionId (clearedRegion s.enc raw))) size
        { s with enc := toggledMode (regionId raw) s.enc, fs := storeFromZero s.fs (clearedRegion s.enc raw) } := by
  unfold interpretFrame
  exact if_pos h

/-- A frame whose CRC does not match leaves the latches alone (R161, R162). -/
theorem interpretFrame_mismatch (h : crcMatches size.toNat (clearedRegion s.enc raw) = false) :
    interpretFrame size raw s =
      { s with
        enc := toggledMode (regionId raw) s.enc
        fs := storeFromZero s.fs (clearedRegion s.enc raw)
        result := .crcMismatch } := by
  unfold interpretFrame
  exact if_neg (by simp [h])

end

@[simp] theorem clearedRegion_length (enc : Bool) (raw : List Byte) : (clearedRegion enc raw).length = raw.length := by
  simp [clearedRegion]

/-- The bytes the copy reads, where all are written. -/
theorem readAll_ringSpan (ring : Memory) (p : Cursor) (n : Nat) (bs : List Byte) :
    Memory.readAll ring (ringSpan p n) = some bs ↔ bs.length = n ∧ ∀ i, i < n → ringByte ring p i = bs[i]? := by
  rw [Memory.readAll_eq_some]
  constructor
  · intro h
    have hl : bs.length = n := by simpa [ringSpan] using (congrArg List.length h).symm
    refine ⟨hl, fun i hi => ?_⟩
    have := congrArg (fun l => l[i]?) h
    simpa [ringSpan, hi, hl, ringByte] using this
  · rintro ⟨hl, h⟩
    refine List.ext_getElem (by simp [ringSpan, hl]) (fun i h1 h2 => ?_)
    have hi : i < n := by simpa [ringSpan] using h1
    have := h i hi
    rw [List.getElem?_eq_getElem (by omega)] at this
    simpa [ringSpan, ringByte] using this

/-- What a POLL that is not refused as busy does, said once: it stops without a frame, it reads an unwritten byte, or it takes the frame
at the first candidate. -/
inductive PollCase (s : State) : State → Prop where
  | stop (r : PollResult) (p : Cursor) (h : PhaseOne s (.stop r p)) :
      PollCase s { s with wSnap := s.wptr, rptr := p, result := r }
  | unwritten (k : Nat) (hk : k < pendingLength s) (hb : pendingByte s k = none) : PollCase s (raiseFault .unwrittenRead s)
  | frame (k : Nat) (size : U16) (raw : List Byte) (h : framePending s k size raw) :
      PollCase s (interpretFrame size raw
        (consumeFrame (s.rptr + BitVec.ofNat 8 k) size { s with wSnap := s.wptr }))

theorem pollIdle_cases (s : State) : PollCase s (pollIdle s) := by
  unfold pollIdle
  have h1 := scanFrame_phaseOne s
  cases hs : scanFrame s.ring s.rptr s.wptr with
  | stop r p => rw [hs] at h1; exact .stop r p h1
  | unwritten =>
    rw [hs] at h1
    cases h1 with
    | unwritten k hk hb => exact .unwritten k hk hb
  | frame p size =>
    rw [hs] at h1
    cases h1 with
    | frame k _ hc hn hsz ho hl hf =>
      dsimp only
      have h4 : (s.rptr + BitVec.ofNat 8 k + BitVec.ofNat 8 Config.headerLength : Cursor) = s.rptr + BitVec.ofNat 8 (k + 4) := by
        rw [BitVec.ofNat_add, BitVec.add_assoc]; rfl
      rw [h4]
      cases hr : Memory.readAll s.ring (ringSpan (s.rptr + BitVec.ofNat 8 (k + 4)) (size.toNat + 2)) with
      | none =>
        obtain ⟨a, ha, hb⟩ := (Memory.readAll_eq_none _ _).1 hr
        obtain ⟨i, hi, rfl⟩ := (mem_ringSpan _ _ _).1 ha
        exact .unwritten (k + 4 + i) (by omega) (by rw [pendingByte, ringByte, ← ringIndex_add, hb])
      | some raw =>
        obtain ⟨hlen, hraw⟩ := (readAll_ringSpan _ _ _ _).1 hr
        refine .frame k size raw ⟨hc, hn, hsz, ho, hl, hf, hlen, fun i hi => ?_⟩
        rw [pendingByte, ← ringByte_add]
        exact hraw i (by omega)

/-- A first candidate is unique. -/
theorem firstCandidate_unique (s : State) (j k : Nat) (hj : firstCandidate s j) (hk : firstCandidate s k) : j = k := by
  rcases Nat.lt_trichotomy j k with h | h | h
  · exact absurd hj.1 (hk.2 j h)
  · exact h
  · exact absurd hk.1 (hj.2 k h)

theorem sizeAt_unique (s : State) (k : Nat) (a b : U16) (ha : sizeAt s k a) (hb : sizeAt s k b) : a = b := by
  obtain ⟨lo, hi, h2, h3, rfl⟩ := ha
  obtain ⟨lo', hi', h2', h3', rfl⟩ := hb
  rw [h2] at h2'; rw [h3] at h3'
  simp_all

end Sys2Proof.Machine
end

