-- ==== Sys2Proof/Laws/Step.lean ====
section
/-! SUPPORT. What an instruction and a step can answer, and what the shared operations do. -/

namespace Sys2Proof.Machine

/-- What a window read can do, said once (R235). -/
theorem windowRead_cases (m : Memory) (i : BitVec 8) (s : State) :
    (∃ b, Memory.read m i.toNat = some b ∧ windowRead m i s = returnWord (b.zeroExtend 32) s) ∨
    (Memory.read m i.toNat = none ∧
      windowRead m i s =
        { raiseFault .unwrittenRead s with rdata := (Config.unwrittenByte s.draws).zeroExtend 32, draws := s.draws + 1 }) := by
  unfold windowRead
  cases h : Memory.read m i.toNat with
  | none => exact .inr ⟨rfl, rfl⟩
  | some b => exact .inl ⟨b, rfl, rfl⟩

/-- What REPLY can do, said once (R210). -/
theorem execReply_cases (n : U16) (s : State) :
    (n.toNat > Config.replyCapacity ∧ execReply n s = .next (raiseFault .replyTooLong s)) ∨
    (n.toNat ≤ Config.replyCapacity ∧ Memory.readAll s.rb (List.range n.toNat) = none ∧
      execReply n s = .next (raiseFault .unwrittenRead s)) ∨
    (∃ payload, n.toNat ≤ Config.replyCapacity ∧ Memory.readAll s.rb (List.range n.toNat) = some payload ∧
      execReply n s = .next (sendReply n payload s)) := by
  unfold execReply
  by_cases h : n.toNat > Config.replyCapacity
  · exact .inl ⟨h, if_pos h⟩
  · rw [if_neg h]
    cases hr : Memory.readAll s.rb (List.range n.toNat) with
    | none => exact .inr (.inl ⟨by omega, rfl, rfl⟩)
    | some payload => exact .inr (.inr ⟨payload, by omega, rfl, rfl⟩)

/-- What POLL can do, said once (R100, R102). -/
theorem execPoll_cases (s : State) :
    (s.busy = true ∧ execPoll s = .next (raiseFault .seqPollWhileBusy s)) ∨
    (s.busy = false ∧ execPoll s = .next (pollIdle s)) := by
  unfold execPoll
  cases h : s.busy <;> simp

/-- What PUSH can do, said once (R232, R233). -/
theorem execPush_cases (b : Byte) (s : State) :
    (pendingCount s.rptr s.wptr = Config.ringCapacity - 1 ∧ execPush b s = .next (raiseFault .overrun s)) ∨
    (pendingCount s.rptr s.wptr ≠ Config.ringCapacity - 1 ∧
      execPush b s = .next { s with ring := Memory.write s.ring s.wptr.toNat b, wptr := s.wptr + 1 }) := by
  unfold execPush
  by_cases h : pendingCount s.rptr s.wptr = Config.ringCapacity - 1
  · exact .inl ⟨h, if_pos h⟩
  · exact .inr ⟨h, if_neg h⟩

/-- What a step can do, said once: nothing to do, the next request decoded and run, or a raw id without effect. -/
theorem step_cases (s t : State) (h : step s = .next t) :
    (s.script = [] ∧ t = s) ∨
    (∃ r rest i, s.script = r :: rest ∧ decode r = .ok i ∧ exec i (s.withScript rest) = .next t) ∨
    (∃ r rest, s.script = r :: rest ∧ decode r = .error .rawIdTogglesNothing ∧ t = s.withScript rest) := by
  unfold step at h
  cases hs : s.script with
  | nil => rw [hs] at h; left; exact ⟨rfl, by simpa using h.symm⟩
  | cons r rest =>
    rw [hs] at h
    dsimp only at h
    cases hd : decode r with
    | ok i => rw [hd] at h; exact .inr (.inl ⟨r, rest, i, rfl, hd, h⟩)
    | error e =>
      rw [hd] at h
      cases e with
      | rawIdTogglesNothing => exact .inr (.inr ⟨r, rest, rfl, hd, by simpa using h.symm⟩)
      | frameNeverExtracted => cases h

/-- What an instruction does, said once: every next state `exec` can answer, by what it changes. -/
inductive ExecCase (s : State) : Instr → State → Prop where
  /-- NOP (R230). -/
  | unchanged : ExecCase s .nop s
  /-- A POLL that is not refused as busy (R101 to R113). -/
  | poll (t : State) (hb : s.busy = false) (h : PollCase s t) : ExecCase s .poll t
  /-- A REPLY that sends (R210). -/
  | reply (n : U16) (payload : List Byte) (hn : n.toNat ≤ Config.replyCapacity)
      (hp : Memory.readAll s.rb (List.range n.toNat) = some payload) : ExecCase s (.reply n) (sendReply n payload s)
  /-- A COMPLETE of an outstanding command (R191). -/
  | complete (hb : s.busy = true) : ExecCase s .complete { s with busy := false }
  /-- A PUSH without an overrun (R232). -/
  | push (b : Byte) (h : pendingLength s ≠ Config.ringCapacity - 1) :
      ExecCase s (.push b) { s with ring := Memory.write s.ring s.wptr.toNat b, wptr := s.wptr + 1 }
  /-- RESET (R340). -/
  | reset : ExecCase s .reset
      { State.reset with tx := s.tx, faults := s.faults, rdata := s.rdata, draws := s.draws, script := s.script }
  /-- WRB (R235). -/
  | windowWrite (i : BitVec 8) (v : Byte) : ExecCase s (.wrb i v) { s with rb := Memory.write s.rb i.toNat v }
  /-- A command row, which no agent issues on its own (R180). -/
  | latch (i : Instr) (id : U16) (sel : BitVec 4) (size : U16) (hi : (encode i).fromAgent = false) :
      ExecCase s i (latch id sel size s)
  /-- A toggle row, which no agent issues on its own (R142). -/
  | toggle (i : Instr) (enc : Bool) (hi : (encode i).fromAgent = false) : ExecCase s i (setMode enc s)
  /-- A host read that returns a value (R234, R235). -/
  | returned (i : Instr) (v : Word) (hi : i ≠ .reset) : ExecCase s i (returnWord v s)
  /-- A fault (R300). -/
  | fault (i : Instr) (f : Fault) (hi : i ≠ .reset) : ExecCase s i (raiseFault f s)
  /-- A fault of a host read, which still returns a value (R235, R237). -/
  | faultReturned (i : Instr) (f : Fault) (v : Word) (d : Nat) (hi : i ≠ .reset) :
      ExecCase s i { raiseFault f s with rdata := v, draws := d }

theorem windowRead_execCase (m : Memory) (j : BitVec 8) (i : Instr) (s : State) (hi : i ≠ .reset) :
    ExecCase s i (windowRead m j s) := by
  rcases windowRead_cases m j s with ⟨b, _, h⟩ | ⟨_, h⟩ <;> rw [h]
  · exact .returned i _ hi
  · exact .faultReturned i _ _ _ hi

theorem exec_cases (i : Instr) (s t : State) (h : exec i s = .next t) : ExecCase s i t := by
  cases i with
  | poll =>
    rcases execPoll_cases s with ⟨_, h'⟩ | ⟨hb, h'⟩ <;> rw [exec, h'] at h <;> cases h
    · exact .fault _ _ (by simp)
    · exact .poll _ hb (pollIdle_cases s)
  | reply n =>
    rcases execReply_cases n s with ⟨_, h'⟩ | ⟨_, _, h'⟩ | ⟨payload, hn, hp, h'⟩ <;> rw [exec, h'] at h <;> cases h
    · exact .fault _ _ (by simp)
    · exact .fault _ _ (by simp)
    · exact .reply n payload hn hp
  | push b =>
    rcases execPush_cases b s with ⟨_, h'⟩ | ⟨hb, h'⟩ <;> rw [exec, h'] at h <;> cases h
    · exact .fault _ _ (by simp)
    · exact .push b hb
  | complete =>
    simp only [exec, execComplete] at h
    split at h
    · rename_i hb; cases h; exact .complete hb
    · cases h; exact .fault _ _ (by simp)
  | illformedAccess a =>
    simp only [exec, execIllformedAccess] at h
    split at h <;> cases h
    · exact .faultReturned _ .badopAccess 0 s.draws (by simp)
    · exact .fault _ _ (by simp)
  | nop => cases h; exact .unchanged
  | reset => cases h; exact .reset
  | wrb j v => cases h; exact .windowWrite j v
  | rdfs j => cases h; exact windowRead_execCase _ _ _ _ (by simp)
  | rdrb j => cases h; exact windowRead_execCase _ _ _ _ (by simp)
  | rdCtrl => cases h; exact .returned _ _ (by simp)
  | rdStatus => cases h; exact .returned _ _ (by simp)
  | rdCursor => cases h; exact .returned _ _ (by simp)
  | rdFrame => cases h; exact .returned _ _ (by simp)
  | rdDispatch => cases h; exact .returned _ _ (by simp)
  | reservedOpLow v => cases h; exact .fault _ _ (by simp)
  | reservedOpHigh v => cases h; exact .fault _ _ (by simp)
  | illformedRsv v => cases h; exact .fault _ _ (by simp)
  | togglePlain => cases h; exact .toggle _ _ rfl
  | toggleResync => cases h; exact .toggle _ _ rfl
  | cmdVersionQuery size => cases h; exact .latch _ _ _ _ rfl
  | cmdEepromRead size => cases h; exact .latch _ _ _ _ rfl
  | cmdEepromWrite size => cases h; exact .latch _ _ _ _ rfl
  | cmdRfTelemetryRead size => cases h; exact .latch _ _ _ _ rfl
  | cmdBatteryTelemetryRead size => cases h; exact .latch _ _ _ _ rfl
  | cmdChallengeResponse size => cases h; exact .latch _ _ _ _ rfl
  | cmdReconfigure size => cases h; exact .latch _ _ _ _ rfl
  | cmdReboot size => cases h; exact .latch _ _ _ _ rfl
  | cmdUnimplemented id size => cases h; exact .latch _ _ _ _ rfl

end Sys2Proof.Machine
end

