-- ==== Sys2Proof/Laws/Handlers.lean ====
section
/-! SUPPORT. When a handler runs, and what every handler's steps are. -/

namespace Sys2Proof.Machine

theorem commandDue_iff (s : State) : commandDue s = true ↔ s.result = .frameOk ∧ s.busy = true := by simp [commandDue]

@[simp] theorem commandDue_rdata (s : State) (v : Word) : commandDue { s with rdata := v } = commandDue s := rfl

/-- What a host read returned plays no part in what a handler does. -/
theorem handle_rdata (s : State) (e : Env) (v : Word) : handle { s with rdata := v } e = handle s e := rfl

/-- No command due: nothing runs. -/
theorem handle_not_due (s : State) (e : Env) (h : commandDue s = false) : handle s e = (e, []) := by simp [handle, h]

/-- A command due, with a select: the handler it names, on the reloaded session counter. -/
theorem handle_due (s : State) (e : Env) (h : commandDue s = true) (hs : s.sel ≠ 0) :
    handle s e = runHandler s.sel (dispatchedFrame s) (armSession e) := by
  unfold handle
  exact if_pos (by simpa [h] using hs)

/-- The window writes and the REPLY of a reply. -/
theorem mem_replySteps (id : U16) (body : List Byte) (r : Request) (h : r ∈ replySteps id body) :
    (∃ i v, r = encode (.wrb i v)) ∨ ∃ n, r = encode (.reply n) := by
  simp only [replySteps, setReplyBytes, List.mem_append, List.mem_map, List.mem_singleton] at h
  rcases h with ⟨c, -, rfl⟩ | rfl
  · exact .inl ⟨_, _, rfl⟩
  · exact .inr ⟨_, rfl⟩

end Sys2Proof.Machine
end

