-- ==== Sys2Proof/Laws/PerInstr.lean ====
section
/-! SUPPORT. Statements per instruction: the request of a well-formed instruction has no bit set that the block does not read. -/

namespace Sys2Proof.Laws.EncodeCanonical

open Sys2Proof Sys2Proof.Machine

/-- The encoder writes only bits the block reads (R11, R52, R81). -/
def Statement (i : Instr) : Prop := i.wf = true → (encode i).canonical = encode i

/-- A CTRL write is read whole. -/
theorem canonical_ctrlWrite (v : Word) : (ctrlWrite v).canonical = ctrlWrite v := rfl

theorem nop : Statement .nop := fun _ => canonical_ctrlWrite _

theorem poll : Statement .poll := fun _ => canonical_ctrlWrite _

theorem reply (len : U16) : Statement (.reply len) := fun _ => canonical_ctrlWrite _

theorem complete : Statement .complete := fun _ => canonical_ctrlWrite _

theorem reservedOpLow (v : Word) : Statement (.reservedOpLow v) := fun _ => canonical_ctrlWrite _

theorem reservedOpHigh (v : Word) : Statement (.reservedOpHigh v) := fun _ => canonical_ctrlWrite _

theorem illformedRsv (v : Word) : Statement (.illformedRsv v) := fun _ => canonical_ctrlWrite _

theorem cmdVersionQuery (size : U16) : Statement (.cmdVersionQuery size) := fun _ => rfl

theorem cmdEepromRead (size : U16) : Statement (.cmdEepromRead size) := fun _ => rfl

theorem cmdEepromWrite (size : U16) : Statement (.cmdEepromWrite size) := fun _ => rfl

theorem cmdRfTelemetryRead (size : U16) : Statement (.cmdRfTelemetryRead size) := fun _ => rfl

theorem cmdBatteryTelemetryRead (size : U16) : Statement (.cmdBatteryTelemetryRead size) := fun _ => rfl

theorem cmdChallengeResponse (size : U16) : Statement (.cmdChallengeResponse size) := fun _ => rfl

theorem cmdReconfigure (size : U16) : Statement (.cmdReconfigure size) := fun _ => rfl

theorem cmdReboot (size : U16) : Statement (.cmdReboot size) := fun _ => rfl

theorem cmdUnimplemented (id : U16) (size : U16) : Statement (.cmdUnimplemented id size) := fun _ => rfl

theorem togglePlain : Statement .togglePlain := fun _ => rfl

theorem toggleResync : Statement .toggleResync := fun _ => rfl

theorem rdCtrl : Statement .rdCtrl := fun _ => rfl

theorem rdStatus : Statement .rdStatus := fun _ => rfl

theorem rdCursor : Statement .rdCursor := fun _ => rfl

theorem rdFrame : Statement .rdFrame := fun _ => rfl

theorem rdDispatch : Statement .rdDispatch := fun _ => rfl

theorem rdfs (i : BitVec 8) : Statement (.rdfs i) := by
  intro _
  simp [encode, Request.canonical, Access.canonical, Access.isFrameRead, Access.isReplyRead]

theorem rdrb (i : BitVec 8) : Statement (.rdrb i) := by
  intro _
  simp [encode, Request.canonical, Access.canonical, Access.isFrameRead, Access.isReplyRead]

theorem wrb (i : BitVec 8) (v : Byte) : Statement (.wrb i v) := by
  intro _
  simp [encode, Request.canonical, Access.canonical, Access.isRegisterRead, Access.isFrameRead, Access.isReplyRead,
    Access.isReplyWrite]
  intro _
  apply BitVec.eq_of_toNat_eq
  have := v.isLt
  simp only [BitVec.toNat_setWidth, BitVec.extractLsb'_toNat, Nat.shiftRight_zero]
  omega

theorem illformedAccess (a : Access) : Statement (.illformedAccess a) := by
  intro h
  simp only [Instr.wf, Bool.not_eq_true', Access.wellFormed, Bool.or_eq_false_iff] at h
  simp [encode, Request.canonical, Access.canonical, h]

theorem push (b : Byte) : Statement (.push b) := fun _ => rfl

theorem reset : Statement .reset := fun _ => rfl

end Sys2Proof.Laws.EncodeCanonical
end

