-- ==== Sys2Proof/Tests/Slice0.lean ====
section
/-! SUPPORT. Tests: an ill-formed term for each check of WellFormed, a word of every row written out from the spec, single steps against
95_test_vectors.md, and a witness for the hypotheses of every statement that has some. -/

namespace Sys2Proof.Tests

open Sys2Proof Sys2Proof.Machine

/-! ### Well-formedness: each check refuses a term -/

theorem wf_refuses_low_op_below : (Instr.reservedOpLow 0x00000003#32).wf = false := by decide
theorem wf_refuses_low_op_above : (Instr.reservedOpLow 0x00000008#32).wf = false := by decide
theorem wf_refuses_high_op : (Instr.reservedOpHigh 0x00000007#32).wf = false := by decide
theorem wf_refuses_illformed_with_reserved_op : (Instr.illformedRsv 0x00000014#32).wf = false := by decide
theorem wf_refuses_illformed_reply_length : (Instr.illformedRsv 0x00080002#32).wf = false := by decide
theorem wf_refuses_illformed_poll : (Instr.illformedRsv 0x00000001#32).wf = false := by decide
theorem wf_refuses_version_query_size : (Instr.cmdVersionQuery 248).wf = false := by decide
theorem wf_refuses_eeprom_read_size : (Instr.cmdEepromRead 248).wf = false := by decide
theorem wf_refuses_eeprom_write_size : (Instr.cmdEepromWrite 0xFFFF).wf = false := by decide
theorem wf_refuses_rf_telemetry_size : (Instr.cmdRfTelemetryRead 248).wf = false := by decide
theorem wf_refuses_battery_telemetry_size : (Instr.cmdBatteryTelemetryRead 248).wf = false := by decide
theorem wf_refuses_challenge_size : (Instr.cmdChallengeResponse 248).wf = false := by decide
theorem wf_refuses_reconfigure_size : (Instr.cmdReconfigure 248).wf = false := by decide
theorem wf_refuses_reboot_size : (Instr.cmdReboot 256).wf = false := by decide
theorem wf_refuses_unimplemented_size : (Instr.cmdUnimplemented 0x9999 248).wf = false := by decide
theorem wf_refuses_unimplemented_command_id : (Instr.cmdUnimplemented 0x0514 4).wf = false := by decide
theorem wf_refuses_good_register_read : (Instr.illformedAccess ⟨.read, 4, 0x010, 0⟩).wf = false := by decide
theorem wf_refuses_good_ctrl_write : (Instr.illformedAccess ⟨.write, 4, 0x000, 4⟩).wf = false := by decide
theorem wf_refuses_good_frame_read : (Instr.illformedAccess ⟨.read, 1, 0x100, 0⟩).wf = false := by decide
theorem wf_refuses_good_reply_read : (Instr.illformedAccess ⟨.read, 1, 0x2FF, 0⟩).wf = false := by decide
theorem wf_refuses_good_reply_write : (Instr.illformedAccess ⟨.write, 1, 0x200, 0⟩).wf = false := by decide
theorem wf_admits_largest_size : (Instr.cmdReboot 247).wf = true := by decide

/-! ### Decoding: a word of each row, written out from R81, R85, R142, R181 -/

theorem decode_nop : decode (.host ⟨.write, 4, 0x000, 0x00000000#32⟩) = .ok .nop := by decide
theorem decode_poll : decode (.host ⟨.write, 4, 0x000, 0x00000001#32⟩) = .ok .poll := by decide
theorem decode_reply : decode (.host ⟨.write, 4, 0x000, 0x01000002#32⟩) = .ok (.reply 256) := by decide
theorem decode_complete : decode (.host ⟨.write, 4, 0x000, 0x00000003#32⟩) = .ok .complete := by decide
theorem decode_reserved_op_low : decode (.host ⟨.write, 4, 0x000, 0x00000007#32⟩) = .ok (.reservedOpLow 0x00000007#32) := by decide
theorem decode_reserved_op_high : decode (.host ⟨.write, 4, 0x000, 0x0000000F#32⟩) = .ok (.reservedOpHigh 0x0000000F#32) := by decide
theorem decode_illformed_rsv : decode (.host ⟨.write, 4, 0x000, 0x00010003#32⟩) = .ok (.illformedRsv 0x00010003#32) := by decide
theorem decode_version_query : decode (.command 0x0514#16 8) = .ok (.cmdVersionQuery 8) := by decide
theorem decode_eeprom_read : decode (.command 0x051B#16 12) = .ok (.cmdEepromRead 12) := by decide
theorem decode_eeprom_write : decode (.command 0x051D#16 4) = .ok (.cmdEepromWrite 4) := by decide
theorem decode_rf_telemetry_read : decode (.command 0x0527#16 4) = .ok (.cmdRfTelemetryRead 4) := by decide
theorem decode_battery_telemetry_read : decode (.command 0x0529#16 4) = .ok (.cmdBatteryTelemetryRead 4) := by decide
theorem decode_challenge_response : decode (.command 0x052D#16 4) = .ok (.cmdChallengeResponse 4) := by decide
theorem decode_reconfigure : decode (.command 0x052F#16 4) = .ok (.cmdReconfigure 4) := by decide
theorem decode_reboot : decode (.command 0x05DD#16 4) = .ok (.cmdReboot 4) := by decide
theorem decode_unimplemented : decode (.command 0x0515#16 4) = .ok (.cmdUnimplemented 0x0515#16 4) := by decide
theorem decode_toggle_plain : decode (.rawId 0x0514#16) = .ok .togglePlain := by decide
theorem decode_toggle_resync : decode (.rawId 0x6902#16) = .ok .toggleResync := by decide
theorem decode_rd_ctrl : decode (.host ⟨.read, 4, 0x000, 0⟩) = .ok .rdCtrl := by decide
theorem decode_rd_status : decode (.host ⟨.read, 4, 0x004, 0⟩) = .ok .rdStatus := by decide
theorem decode_rd_cursor : decode (.host ⟨.read, 4, 0x008, 0⟩) = .ok .rdCursor := by decide
theorem decode_rd_frame : decode (.host ⟨.read, 4, 0x00C, 0⟩) = .ok .rdFrame := by decide
theorem decode_rd_dispatch : decode (.host ⟨.read, 4, 0x010, 0⟩) = .ok .rdDispatch := by decide
theorem decode_rdfs : decode (.host ⟨.read, 1, 0x1FF, 0⟩) = .ok (.rdfs 0xFF) := by decide
theorem decode_rdrb : decode (.host ⟨.read, 1, 0x203, 0⟩) = .ok (.rdrb 3) := by decide
theorem decode_wrb : decode (.host ⟨.write, 1, 0x201, 0x05#32⟩) = .ok (.wrb 1 0x05) := by decide
theorem decode_illformed_access : decode (.host ⟨.read, 4, 0x006, 0⟩) = .ok (.illformedAccess ⟨.read, 4, 0x006, 0⟩) := by decide
theorem decode_push : decode (.dma 0xAB) = .ok (.push 0xAB) := by decide
theorem decode_reset : decode (.envReset) = .ok .reset := by decide
theorem decode_unread_raw_id : decode (.rawId 0x051B#16) = .error .rawIdTogglesNothing := by decide
theorem decode_unextractable_size : decode (.command 0x0514#16 248) = .error .frameNeverExtracted := by decide
theorem decode_reply_with_reserved_field : decode (.host ⟨.write, 4, 0x000, 0x00080012#32⟩) = .ok (.illformedRsv 0x00080012#32) := by
  decide

/-! ### Small states -/

/-- The state an outcome goes on with. -/
def after : Host.Outcome State Fault Refusal → State
  | .next t => t
  | .fault _ => State.reset
  | .refused _ => State.reset

/-- The state after reset with these bytes pending from `p` on. -/
def pendingAt (p : Cursor) (bytes : List Byte) : State :=
  { State.reset with
    ring := Memory.writeAll [] ((ringSpan p bytes.length).zip bytes)
    rptr := p
    wptr := p + BitVec.ofNat 8 bytes.length }

/-- The state after reset with these bytes in `RB`. -/
def replying (enc : Bool) (bytes : List Byte) : State := { State.reset with enc := enc, rb := storeFromZero [] bytes }

/-- `ZERO_E`, a frame of size 0 (95_test_vectors.md). -/
def zeroE : List Byte := [0xAB, 0xCD, 0x00, 0x00, 0x16, 0x6C, 0xDC, 0xBA]

/-- The eeprom-read row of 95_test_vectors.md §2.4. -/
def readFrame : List Byte := [0xAB, 0xCD, 0x04, 0x00, 0x0D, 0x69, 0x14, 0xE6, 0x66, 0x7F, 0xDC, 0xBA]

/-- Its payload and CRC in the ring, obfuscated. -/
def readRaw : List Byte := [0x0D, 0x69, 0x14, 0xE6, 0x66, 0x7F]

/-! ### Steps (95_test_vectors.md; the vector is named at each) -/

/-- V-I1. -/
theorem step_nop : after (exec .nop (pendingAt 3 [1])) = pendingAt 3 [1] := by decide
/-- V-S1. -/
theorem step_poll_empty : statusWord (after (exec .poll State.reset)) = 0x0000000A#32 := by decide +kernel
/-- V-S13's wraparound, with the eeprom-read row of §2.4: `SEL` 2, `BUSY`, the cleartext in `FS`. -/
theorem step_poll_frame :
    (let t := after (exec .poll (pendingAt 250 readFrame))
     (statusWord t, t.sel, t.cmdId, t.rptr, Memory.readAll t.fs (List.range 6))) =
      (0x00000019#32, 2#4, 0x051B#16, 6#8, some [0x1B, 0x05, 0x00, 0x00, 0x48, 0xEE]) := by decide +kernel
/-- V-R2. -/
theorem step_reply :
    (after (exec (.reply 1) (replying true [0x5A]))).tx = [0xAB, 0xCD, 0x01, 0x00, 0x4C, 0x93, 0xEB, 0xDC, 0xBA] := by decide +kernel
/-- V-R10. -/
theorem step_reply_plain :
    (after (exec (.reply 2) (replying false [0xAB, 0xCD]))).tx = [0xAB, 0xCD, 0x02, 0x00, 0xAB, 0xCD, 0xFF, 0xFF, 0xDC, 0xBA] := by
  decide +kernel
/-- V-D2. -/
theorem step_complete : (after (exec .complete { State.reset with busy := true, sel := 2 })).busy = false := by decide
/-- V-D3. -/
theorem step_complete_idle : (after (exec .complete State.reset)).faults = [.seqCompleteWhileIdle] := by decide
/-- V-I2. -/
theorem step_reserved_low : statusWord (after (exec (.reservedOpLow 4) State.reset)) = 0x00000028#32 := by decide
/-- V-I3. -/
theorem step_reserved_high : statusWord (after (exec (.reservedOpHigh 15) State.reset)) = 0x00000028#32 := by decide
/-- V-I6. -/
theorem step_illformed_rsv : (after (exec (.illformedRsv 0x00010003#32) State.reset)).faults = [.badopCtrl] := by decide
/-- §2.4, `STATUS` and `DISPATCH` of each row. -/
theorem step_version_query : dispatchWord (after (exec (.cmdVersionQuery 4) State.reset)) = 1 := by decide
theorem step_eeprom_read : frameWord (after (exec (.cmdEepromRead 12) State.reset)) = 0x000C051B#32 := by decide
theorem step_eeprom_write : dispatchWord (after (exec (.cmdEepromWrite 4) State.reset)) = 3 := by decide
theorem step_rf_telemetry : dispatchWord (after (exec (.cmdRfTelemetryRead 4) State.reset)) = 4 := by decide
theorem step_battery : dispatchWord (after (exec (.cmdBatteryTelemetryRead 4) State.reset)) = 5 := by decide
theorem step_challenge : dispatchWord (after (exec (.cmdChallengeResponse 4) State.reset)) = 6 := by decide
theorem step_reconfigure : dispatchWord (after (exec (.cmdReconfigure 4) State.reset)) = 7 := by decide
theorem step_reboot : statusWord (after (exec (.cmdReboot 4) State.reset)) = 0x00000019#32 := by decide
theorem step_unimplemented : statusWord (after (exec (.cmdUnimplemented 0x9999 4) State.reset)) = 0x00000009#32 := by decide
/-- V-K3's and V-K1's toggles. -/
theorem step_toggle_plain : statusWord (after (exec .togglePlain State.reset)) = 0x00000000#32 := by decide
theorem step_toggle_resync : (after (exec .toggleResync { State.reset with enc := false })).enc = true := by decide
/-- V-I13, V-I10, V-I12. -/
theorem step_rd_ctrl : (after (exec .rdCtrl { State.reset with rdata := 5 })).rdata = 0 := by decide
theorem step_rd_status : (after (exec .rdStatus State.reset)).rdata = 0x00000008#32 := by decide
theorem step_rd_cursor :
    (after (exec .rdCursor { State.reset with rptr := 250, wSnap := 250, wptr := 10 })).rdata = 0x100AFAFA#32 := by decide
theorem step_rd_frame : (after (exec .rdFrame { State.reset with cmdId := 0x0514, fsize := 8 })).rdata = 0x00080514#32 := by decide
theorem step_rd_dispatch : (after (exec .rdDispatch { State.reset with sel := 8 })).rdata = 8 := by decide
/-- R235 and V-I19. -/
theorem step_rdfs : (after (exec (.rdfs 1) { State.reset with fs := [(0, 0x14), (1, 0x85)] })).rdata = 0x85 := by decide
theorem step_rdfs_unwritten : (after (exec (.rdfs 20) State.reset)).faults = [.unwrittenRead] := by decide
theorem step_rdrb : (after (exec (.rdrb 0) (replying true [0x2E]))).rdata = 0x2E := by decide
theorem step_wrb : (after (exec (.wrb 1 0x05) (replying true [0x15, 0x00, 0x07]))).rb = [(0, 0x15), (1, 0x05), (2, 0x07)] := by decide
/-- V-I15 and V-I14. -/
theorem step_illformed_read :
    (let t := after (exec (.illformedAccess ⟨.read, 4, 0x014, 0⟩) { State.reset with rdata := 5 }); (t.badop, t.rdata)) = (true, 0) := by
  decide
theorem step_illformed_write : (after (exec (.illformedAccess ⟨.write, 1, 0x104, 0⟩) State.reset)).faults = [.badopAccess] := by decide
/-- V-I21 and V-I20. -/
theorem step_push :
    (let t := after (exec (.push 0xAB) { State.reset with rptr := 10, wptr := 255 }); (t.ring, t.wptr)) = ([(255, 0xAB)], 0) := by decide
theorem step_push_overrun : (after (exec (.push 1) { State.reset with wptr := 255 })).wptr = 255 := by decide
/-- V-I22. -/
theorem step_reset :
    (let t := after (exec .reset { State.reset with seqerr := true, busy := true, sel := 2, wptr := 20, tx := [1] })
     (statusWord t, cursorWord t, dispatchWord t, t.tx)) = (0x00000008#32, 0, 0, [1]) := by decide

/-! ### The reading of a table word, from reset -/

/-- `step` runs the word's instruction first. -/
theorem fetch_complete :
    after (step (State.reset.withFetchWord 32 0x00000003)) = after (exec .complete State.reset) := by decide
theorem fetch_toggle_resync : decodeTableWord 16 0x6902 = some .toggleResync := by decide
theorem fetch_register_read : decodeTableWord 16 0x008 = some .rdCursor := by decide

/-- The CRC of "3C" and of `HELLO` (95_test_vectors.md §2.3). -/
theorem crc_of_3c : crc16 [0x3C] = 0xF7DF#16 := by decide +kernel
theorem crc_of_hello : crc16 [0x14, 0x05, 0x04, 0x00, 0x6A, 0x39, 0x57, 0x64] = 0x9C98#16 := by decide +kernel

/-! ### Witnesses: states and operands that meet the hypotheses of each statement -/

theorem witness_DecodeOfEncode :
    (Instr.reply 0xFFFF).wf = true ∧ (Instr.cmdEepromRead 247).wf = true ∧ (Instr.rdfs 255).wf = true ∧
      (Instr.illformedAccess ⟨.read, 1, 0x300, 7⟩).wf = true := by decide
theorem witness_EncodeOfDecode :
    decode (.host ⟨.write, 1, 0x2FF, 0xFFFFFFFF#32⟩) = .ok (.wrb 255 0xFF) ∧ decode (.command 0x05DD#16 247) = .ok (.cmdReboot 247) := by
  decide
theorem witness_CommandWords :
    decodeCtrl 0xFFFF0002#32 = .reply 0xFFFF ∧ decodeCtrl 0xFFFFFFF4#32 = .reservedOpLow 0xFFFFFFF4#32 ∧
      decodeCtrl 0x00000008#32 = .reservedOpHigh 0x00000008#32 ∧ decodeCtrl 0x0000FFF3#32 = .illformedRsv 0x0000FFF3#32 ∧
      decodeCtrl 0x00010000#32 = .illformedRsv 0x00010000#32 := by decide
/-- R7's values. -/
theorem parameters_of_this_hardware :
    [Config.device.ringCapacity, Config.device.cursorWidth, Config.device.headerLength, Config.device.footerLength, Config.device.minFrame,
      Config.device.maxSize, Config.device.frameCapacity, Config.device.replyCapacity, Config.device.selects] =
      [256, 8, 4, 4, 8, 248, 256, 256, 9] := by decide
theorem witness_AccessesOutsideTheMap :
    decodeAccess ⟨.read, 1, 0x0FF, 0⟩ = .illformedAccess ⟨.read, 1, 0x0FF, 0⟩ ∧ decodeAccess ⟨.read, 1, 0x100, 0⟩ = .rdfs 0 ∧
      decodeAccess ⟨.write, 1, 0x1FF, 0⟩ = .illformedAccess ⟨.write, 1, 0x1FF, 0⟩ ∧ decodeAccess ⟨.write, 1, 0x200, 0⟩ = .wrb 0 0 ∧
      decodeAccess ⟨.read, 1, 0x300, 0⟩ = .illformedAccess ⟨.read, 1, 0x300, 0⟩ := by decide
theorem witness_StepRuns :
    (State.reset.withFetchWord 32 1).script = [ctrlWrite 0x00000001#32] ∧ decode (ctrlWrite 0x00000001#32) = .ok .poll := by decide
theorem witness_Complete : { State.reset with busy := true }.busy = true ∧ State.reset.busy = false := by decide
theorem witness_Push :
    pendingLength State.reset ≠ 255 ∧ pendingLength { State.reset with wptr := 254 } ≠ 255 ∧
      pendingLength { State.reset with rptr := 10, wptr := 8 } ≠ 255 := by decide
theorem witness_Overrun :
    pendingLength { State.reset with wptr := 255 } = 255 ∧ pendingLength { State.reset with rptr := 10, wptr := 9 } = 255 := by decide
theorem witness_WindowReads :
    Memory.read [(0, 0x14), (255, 0x85)] (0#8).toNat = some 0x14 ∧ Memory.read [(0, 0x14), (255, 0x85)] (255#8).toNat = some 0x85 := by
  decide
theorem witness_UnwrittenWindowReads :
    Memory.read State.reset.fs (0#8).toNat = none ∧ Memory.read State.reset.rb (255#8).toNat = none := by decide
theorem witness_IllFormedAccesses :
    (Access.mk .read 4 0x014 0).dir = .read ∧ (Access.mk .write 1 0x104 0).dir = .write := by decide
theorem witness_UnimplementedIds : 0x9999#16 ∉ commandIds ∧ 0x6902#16 ∉ commandIds := by decide
theorem witness_Toggles : 0x051B#16 ≠ 0x0514#16 ∧ 0x051B#16 ≠ 0x6902#16 := by decide
theorem witness_VersionQuery :
    2 ≤ [0x02#8, 0x69#8].length ∧ regionId [0x02, 0x69] = Config.device.idResync ∧ regionId [0x14, 0x05] = Config.idPlain := by decide
theorem witness_CrcIsLinear : [0x14#8, 0x05#8].length = [0x01#8, 0x80#8].length := by decide
/-- V-K7's region. -/
theorem witness_CrcCatches : [0x3C#8, 0xDF#8, 0xF7#8].length = 1 + 2 ∧ crcMatches 1 [0x3C, 0xDF, 0xF7] = true := by decide +kernel
theorem witness_PollWhileBusy : { State.reset with busy := true }.busy = true := rfl
theorem witness_PollOfWritten : (pendingAt 250 readFrame).busy = false ∧ pendingWritten (pendingAt 250 readFrame) := by
  unfold pendingWritten; decide +kernel

/-- V-S2: no start marker. -/
theorem witness_noMarker : (pendingAt 0 [0x00, 0x11, 0x22]).rptr ≠ (pendingAt 0 [0x00, 0x11, 0x22]).wptr ∧
    ∀ k, ¬candidate (pendingAt 0 [0x00, 0x11, 0x22]) k := by
  refine ⟨by decide, fun k hk => ?_⟩
  have h : ∀ k, k < pendingLength (pendingAt 0 [0x00, 0x11, 0x22]) →
      pendingByte (pendingAt 0 [0x00, 0x11, 0x22]) k ≠ some Config.device.markS0 := by decide +kernel
  exact h k hk.1 hk.2.1
/-- V-S3b: a start marker with too little after it, and one with exactly 7 bytes pending. -/
theorem witness_tooShort :
    firstCandidate (pendingAt 0 [0x11, 0x22, 0xAB]) 2 ∧ pendingLength (pendingAt 0 [0x11, 0x22, 0xAB]) - 2 < 8 ∧
    firstCandidate (pendingAt 0 [0xAB, 0xCD, 0, 0, 0, 0, 0]) 0 ∧ pendingLength (pendingAt 0 [0xAB, 0xCD, 0, 0, 0, 0, 0]) - 0 < 8 := by
  unfold firstCandidate candidate; decide +kernel
/-- V-S7: a size of 249. -/
theorem witness_sizeOverflow :
    firstCandidate (pendingAt 0 [0xAB, 0xCD, 0xF9, 0x00, 1, 2, 3, 4]) 0 ∧
      8 ≤ pendingLength (pendingAt 0 [0xAB, 0xCD, 0xF9, 0x00, 1, 2, 3, 4]) - 0 ∧
      sizeAt (pendingAt 0 [0xAB, 0xCD, 0xF9, 0x00, 1, 2, 3, 4]) 0 0xF9 ∧ (0xF9#16).toNat + 8 > 256 :=
  ⟨by unfold firstCandidate candidate; decide +kernel, by decide +kernel, ⟨0xF9, 0x00, by decide +kernel⟩, by decide⟩
/-- V-S8: a size of 248, which never fits. -/
theorem witness_incomplete :
    firstCandidate (pendingAt 0 [0xAB, 0xCD, 0xF8, 0x00, 1, 2, 3, 4]) 0 ∧
      sizeAt (pendingAt 0 [0xAB, 0xCD, 0xF8, 0x00, 1, 2, 3, 4]) 0 0xF8 ∧ (0xF8#16).toNat + 8 ≤ 256 ∧
      pendingLength (pendingAt 0 [0xAB, 0xCD, 0xF8, 0x00, 1, 2, 3, 4]) - 0 < (0xF8#16).toNat + 8 :=
  ⟨by unfold firstCandidate candidate; decide +kernel, ⟨0xF8, 0x00, by decide +kernel⟩, by decide, by decide +kernel⟩
/-- V-S9: a wrong footer. -/
theorem witness_badFooter :
    firstCandidate (pendingAt 0 [0xAB, 0xCD, 0, 0, 0, 0, 0xDC, 0xBB]) 0 ∧ sizeAt (pendingAt 0 [0xAB, 0xCD, 0, 0, 0, 0, 0xDC, 0xBB]) 0 0 ∧
      ¬footerAt (pendingAt 0 [0xAB, 0xCD, 0, 0, 0, 0, 0xDC, 0xBB]) 0 0 :=
  ⟨by unfold firstCandidate candidate; decide +kernel, ⟨0, 0, by decide +kernel⟩, by unfold footerAt; decide +kernel⟩
/-- A frame across the ring's end whose CRC matches, in a state that can POLL it. -/
theorem witness_framePending :
    (pendingAt 250 readFrame).busy = false ∧ pendingWritten (pendingAt 250 readFrame) ∧
      framePending (pendingAt 250 readFrame) 0 4 readRaw ∧
      crcMatches (4#16).toNat (clearedRegion (pendingAt 250 readFrame).enc readRaw) = true :=
  ⟨rfl, witness_PollOfWritten.2, ⟨by unfold firstCandidate candidate; decide +kernel, by decide +kernel, ⟨4, 0, by decide +kernel⟩,
    by decide, by decide +kernel, by unfold footerAt; decide +kernel, by decide, by decide +kernel⟩, by decide +kernel⟩
/-- V-S10: a frame whose CRC does not match. -/
theorem witness_crcMismatch :
    pendingWritten (pendingAt 0 [0xAB, 0xCD, 0, 0, 0, 0, 0xDC, 0xBA]) ∧
      framePending (pendingAt 0 [0xAB, 0xCD, 0, 0, 0, 0, 0xDC, 0xBA]) 0 0 [0, 0] ∧ crcMatches 0 (clearedRegion true [0, 0]) = false :=
  ⟨by unfold pendingWritten; decide +kernel, ⟨by unfold firstCandidate candidate; decide +kernel, by decide +kernel,
    ⟨0, 0, by decide +kernel⟩, by decide, by decide +kernel, by unfold footerAt; decide +kernel, by decide, by decide +kernel⟩,
    by decide +kernel⟩

/-- A state for each outcome of an idle POLL: V-S1, V-S2, V-S8, V-S7, V-S9, V-S10, `ZERO_E`. -/
def outcomeStates : List State :=
  [State.reset, pendingAt 0 [0x00, 0x11, 0x22], pendingAt 0 [0xAB, 0xCD, 0xF8, 0x00, 1, 2, 3, 4],
    pendingAt 0 [0xAB, 0xCD, 0xF9, 0x00, 1, 2, 3, 4], pendingAt 0 [0xAB, 0xCD, 0, 0, 0, 0, 0xDC, 0xBB],
    pendingAt 0 [0xAB, 0xCD, 0, 0, 0, 0, 0xDC, 0xBA], pendingAt 0 zeroE]

theorem poll_next (s : State) : exec .poll s = .next (after (exec .poll s)) := by
  change execPoll s = .next (after (execPoll s)); unfold execPoll; split <;> rfl
/-- POLL goes on without a fault from each, with the outcome the vector gives: PollCursorLaw's hypotheses, clause by clause, and those of
PollWithoutAFrameWritesThreeRegisters and PollMakesProgress. -/
theorem witness_PollOutcomes :
    (∀ s ∈ outcomeStates, s.busy = false ∧ (after (exec .poll s)).faults = s.faults) ∧
      outcomeStates.map (fun s => (after (exec .poll s)).result) =
        [.noData, .noMarker, .incomplete, .sizeOverflow, .badFooter, .crcMismatch, .frameOk] := by decide +kernel
theorem witness_PollOutcomesWritten (s : State) (h : s ∈ outcomeStates) : pendingWritten s := by
  have h' : ∀ s ∈ outcomeStates, ∀ k, k < pendingLength s → pendingByte s k ≠ none := by decide +kernel
  exact h' s h
theorem witness_PollWritesOnlyPending :
    ∀ k, k < pendingLength (pendingAt 0 readFrame) → 12 ≠ ringIndex (pendingAt 0 readFrame).rptr k := by decide +kernel
theorem witness_Wraparound :
    (pendingAt 0 readFrame).busy = false ∧ (pendingAt 250 readFrame).busy = false ∧
      (pendingAt 0 readFrame).enc = (pendingAt 250 readFrame).enc ∧ (pendingAt 0 readFrame).fs = (pendingAt 250 readFrame).fs ∧
      (pendingAt 0 readFrame).cmdId = (pendingAt 250 readFrame).cmdId ∧
      (pendingAt 0 readFrame).fsize = (pendingAt 250 readFrame).fsize ∧ (pendingAt 0 readFrame).sel = (pendingAt 250 readFrame).sel ∧
      pendingWritten (pendingAt 0 readFrame) ∧ samePending (pendingAt 0 readFrame) (pendingAt 250 readFrame) := by
  unfold pendingWritten samePending; decide +kernel
theorem witness_Size248 :
    (pendingAt 0 [0xAB, 0xCD, 0xF8, 0x00, 1, 2, 3, 4]).busy = false ∧
      8 ≤ pendingLength (pendingAt 0 [0xAB, 0xCD, 0xF8, 0x00, 1, 2, 3, 4]) ∧
      (List.range 4).map (pendingByte (pendingAt 0 [0xAB, 0xCD, 0xF8, 0x00, 1, 2, 3, 4])) = [some 0xAB, some 0xCD, some 0xF8, some 0x00] := by
  decide +kernel
/-- A sent frame in the block's mode, and one that changes it (V-K3). -/
theorem witness_SentFrame :
    (pendingAt 250 readFrame).busy = false ∧ [0x1B#8, 0x05#8, 0x00#8, 0x00#8].length ≤ 247 ∧
      pendingStartsWith (pendingAt 250 readFrame) (inboundFrame true [0x1B, 0x05, 0x00, 0x00]) ∧
      toggledMode (regionId (applyMode true (clearRegion [0x1B, 0x05, 0x00, 0x00]))) (pendingAt 250 readFrame).enc = true ∧
      toggledMode (regionId (applyMode false (clearRegion [0x14, 0x05, 0x00, 0x00]))) State.reset.enc = false := by
  unfold pendingStartsWith; decide +kernel
theorem witness_FramesOneAtATime :
    (pendingAt 250 (readFrame ++ zeroE)).busy = false ∧
      pendingStartsWith (pendingAt 250 (readFrame ++ zeroE)) (inboundFrame true [0x1B, 0x05, 0x00, 0x00] ++ zeroE) := by
  unfold pendingStartsWith; decide +kernel
theorem witness_NoDispatch :
    (encode .poll).fromAgent = true ∧ (after (exec .poll (pendingAt 250 readFrame))).sel ≠ (pendingAt 250 readFrame).sel := by
  decide +kernel
/-- What `replying` holds reads back. -/
theorem readAll_replying (enc : Bool) (bytes : List Byte) (n : U16) (h : n.toNat = bytes.length) :
    Memory.readAll (replying enc bytes).rb (List.range n.toNat) = some bytes := by
  rw [h]; exact readAll_storeFromZero [] bytes
/-- REPLY of 0 and of 256 bytes, in both modes. -/
theorem witness_Reply (enc : Bool) :
    Memory.readAll (replying enc []).rb (List.range (0#16).toNat) = some [] ∧
      Memory.readAll (replying enc (List.replicate 256 0)).rb (List.range (256#16).toNat) = some (List.replicate 256 0) :=
  ⟨rfl, readAll_replying enc (List.replicate 256 0) 256 (by rw [List.length_replicate]; rfl)⟩
theorem witness_ReplyRefusals :
    256 < (257#16).toNat ∧ (256#16).toNat ≤ 256 ∧ Memory.read State.reset.rb 255 = none := by decide
theorem witness_SecondReply :
    (replying true [0x2E]).enc = true ∧ Memory.readAll (replying true [0x2E]).rb (List.range (1#16).toNat) = some [0x2E] ∧
      exec (.reply 1) (replying true [0x2E]) = .next (after (exec (.reply 1) (replying true [0x2E]))) := ⟨rfl, by decide, rfl⟩
theorem witness_FaultingStep :
    exec .complete State.reset = .next (after (exec .complete State.reset)) ∧ (after (exec .complete State.reset)).seqerr = true ∧
      exec .nop (after (exec .complete State.reset)) = .next (after (exec .complete State.reset)) := ⟨rfl, by decide, rfl⟩
theorem witness_Writers :
    (encode (.push 1)).fromAgent = true ∧ (after (exec (.push 1) State.reset)).wptr ≠ State.reset.wptr ∧
      (after (exec (.wrb 0 1) State.reset)).rb ≠ State.reset.rb := by decide
theorem witness_ModelStep :
    step (State.reset.withFetchWord 32 3) = .next (after (step (State.reset.withFetchWord 32 3))) ∧
      (after (step (State.reset.withFetchWord 32 3))).faults = (State.reset.withFetchWord 32 3).faults ++ [.seqCompleteWhileIdle] ∧
      (after (step (State.reset.withFetchWord 32 0))).faults = (State.reset.withFetchWord 32 0).faults := ⟨rfl, by decide, by decide⟩
theorem witness_MemoriesCanonical : memoriesCanonical (pendingAt 250 readFrame) := by unfold memoriesCanonical; decide +kernel

/-- A dispatched eeprom-read, with COMPLETE to come. -/
def dispatched : State := (after (exec .poll (pendingAt 250 readFrame))).withScript [encode .complete]

theorem witness_HandlerView :
    agentScript dispatched ∧ latchCoherent dispatched ∧ dispatched.busy = true ∧ frameHeld dispatched ∧
      after (step dispatched) = { dispatched with busy := false, script := [] } := by
  refine ⟨by unfold agentScript; decide +kernel, by unfold latchCoherent; decide +kernel, by decide +kernel, ?_, by decide +kernel⟩
  unfold frameHeld
  exact fun _ => ⟨[0x1B, 0x05, 0x00, 0x00, 0x48, 0xEE], by decide +kernel⟩
theorem witness_HandlerViewStep (s : State) : ∃ t, step (s.withScript [encode .complete]) = .next t := by
  change ∃ t, execComplete (s.withScript []) = .next t
  unfold execComplete; split <;> exact ⟨_, rfl⟩
theorem witness_Sticky :
    { State.reset with badop := true, faults := [.badopCtrl] }.badop = true ∧
      stickyRecorded { State.reset with badop := true, faults := [.badopCtrl] } := by
  unfold stickyRecorded; decide

/-- A response that differs from what the default key expects is refused, whatever the opaque cipher is. -/
theorem witness_Refused (e : Env) (h : e.hasCustomKey = false) :
    responseAccepted e { Config.encryptBlock Config.defaultKey Config.Block.zero e.challenge with
      w0 := ~~~(Config.encryptBlock Config.defaultKey Config.Block.zero e.challenge).w0 } = false := by
  have hn : ∀ b : Config.Block, b ≠ { b with w0 := ~~~b.w0 } := by
    intro b hb
    have h0 := congrArg (fun c => Config.Block.w0 c) hb
    have h1 := congrArg (fun w : Word => w.msb) h0
    simp at h1
  simp only [responseAccepted, h, responseMatches, Bool.false_and, Bool.false_or, beq_eq_false_iff_ne]
  exact hn _
theorem witness_ThirdFailure : ∃ r, { Env.initial with hasCustomKey := false }.attempts = 0 ∧
    responseAccepted { Env.initial with hasCustomKey := false } r = false := ⟨_, rfl, witness_Refused _ rfl⟩
theorem witness_Locked : Env.initial.locked = true ∧ Env.initial.attempts = 0 := ⟨rfl, rfl⟩
theorem witness_Clamp : (0x1FFF : Nat) < 0x2000 ∧ 0 < clampRead 0x1FFF 1 := by decide
/-- A state in which a command with this select is due. -/
def due (sel : BitVec 4) : State := { State.reset with result := .frameOk, busy := true, sel := sel }
theorem witness_Handlers :
    encode .reset ∈ (handle (due 8) Env.initial).2 ∧ encode .complete ∈ (handle (due 4) Env.initial).2 := by
  rw [handle_due _ _ rfl (by decide), handle_due _ _ rfl (by decide)]
  refine ⟨?_, ?_⟩ <;> simp [due, runHandler, handleReboot, handleRfTelemetryRead, completeStep]
/-- Each hypothesis of the clauses on a due command, at its boundary selects. -/
theorem witness_DueCommands :
    (due 0).sel = 0 ∧ 1 ≤ (due 1).sel.toNat ∧ (due 7).sel.toNat ≤ 7 ∧ (due 8).sel = 8 ∧ (due 8).result = .frameOk ∧ (due 8).busy = true := by
  decide
/-- A select left over after COMPLETE (R239, R260): no handler runs again. -/
theorem witness_StaleSelect :
    (after (exec .complete dispatched)).sel = 2 ∧ (after (exec .complete dispatched)).result = .frameOk ∧
      (after (exec .complete dispatched)).busy = false := by decide +kernel
theorem stale_select_runs_nothing (e : Env) : handle (after (exec .complete dispatched)) e = (e, []) :=
  handle_not_due _ e (by decide +kernel)
/-- A turn of R239's loop from each side: a frame pending, and nothing pending. -/
theorem witness_HostTurn :
    (pendingAt 250 readFrame).busy = false ∧ commandDue (after (exec .poll (pendingAt 250 readFrame))) = true ∧
      commandDue (after (exec .poll State.reset)) = false := by decide +kernel

end Sys2Proof.Tests
end

section
/-! The recorded faults and the sticky bits (10_state.md R31, 60_exceptions.md R300, R305): which faults an instruction records, and what
they do to `BADOP` and `SEQERR`. -/

namespace Sys2Proof.Machine

/-! ### What a POLL that is not refused leaves alone -/

section
variable {s t : State} (h : PollCase s t)
include h

theorem PollCase.wptr_eq : t.wptr = s.wptr := by cases h <;> simp
theorem PollCase.rb_eq : t.rb = s.rb := by cases h <;> simp
theorem PollCase.badop_eq : t.badop = s.badop := by cases h <;> simp [Fault.setsBadop]
theorem PollCase.seqerr_eq : t.seqerr = s.seqerr := by cases h <;> simp [Fault.setsSeqerr]
theorem PollCase.tx_eq : t.tx = s.tx := by cases h <;> simp

/-- The one fault such a POLL records is the read of an unwritten pending byte (R300). -/
theorem PollCase.faults_cases :
    t.faults = s.faults ∨
      t.faults = s.faults ++ [.unwrittenRead] ∧ ∃ k, k < pendingLength s ∧ pendingByte s k = none := by
  cases h with
  | stop => exact .inl rfl
  | unwritten k hk hb => exact .inr ⟨rfl, k, hk, hb⟩
  | frame => simp

end

/-! ### Which instruction records which fault -/

/-- R300's table: the faults of each instruction, and the condition under which it raises them. -/
inductive Raises (s : State) : Instr → Fault → Prop where
  | reservedOpLow (v : Word) : Raises s (.reservedOpLow v) .badopCtrl
  | reservedOpHigh (v : Word) : Raises s (.reservedOpHigh v) .badopCtrl
  | illformedRsv (v : Word) : Raises s (.illformedRsv v) .badopCtrl
  | replyTooLong (n : U16) (hn : Config.replyCapacity < n.toNat) : Raises s (.reply n) .replyTooLong
  | pollWhileBusy (hb : s.busy = true) : Raises s .poll .seqPollWhileBusy
  | completeWhileIdle (hb : s.busy = false) : Raises s .complete .seqCompleteWhileIdle
  | illformedAccess (a : Access) : Raises s (.illformedAccess a) .badopAccess
  | unwrittenFrame (j : BitVec 8) (hr : Memory.read s.fs j.toNat = none) : Raises s (.rdfs j) .unwrittenRead
  | unwrittenReply (j : BitVec 8) (hr : Memory.read s.rb j.toNat = none) : Raises s (.rdrb j) .unwrittenRead
  | unwrittenPayload (n : U16) (hr : Memory.readAll s.rb (List.range n.toNat) = none) : Raises s (.reply n) .unwrittenRead
  | unwrittenPending (k : Nat) (hk : k < pendingLength s) (hb : pendingByte s k = none) : Raises s .poll .unwrittenRead
  | overrun (b : Byte) (hp : pendingLength s = Config.ringCapacity - 1) : Raises s (.push b) .overrun

/-- The faults a window read records (R235). -/
theorem windowRead_faults (m : Memory) (j : BitVec 8) (s : State) :
    (windowRead m j s).faults = s.faults ∨
      (windowRead m j s).faults = s.faults ++ [.unwrittenRead] ∧ Memory.read m j.toNat = none := by
  rcases windowRead_cases m j s with ⟨b, _, h⟩ | ⟨hr, h⟩ <;> rw [h]
  · exact .inl rfl
  · exact .inr ⟨rfl, hr⟩

/-- An instruction records no fault, or one that R300's table gives it. -/
theorem exec_faults {i : Instr} {s t : State} (h : exec i s = .next t) :
    t.faults = s.faults ∨ ∃ f, t.faults = s.faults ++ [f] ∧ Raises s i f := by
  cases i with
  | poll =>
    rcases execPoll_cases s with ⟨hb, h'⟩ | ⟨_, h'⟩ <;> rw [exec, h'] at h <;> cases h
    · exact .inr ⟨_, rfl, .pollWhileBusy hb⟩
    · rcases (pollIdle_cases s).faults_cases with hf | ⟨hf, k, hk, hb⟩
      · exact .inl hf
      · exact .inr ⟨_, hf, .unwrittenPending k hk hb⟩
  | reply n =>
    rcases execReply_cases n s with ⟨hn, h'⟩ | ⟨_, hr, h'⟩ | ⟨payload, _, _, h'⟩ <;> rw [exec, h'] at h <;> cases h
    · exact .inr ⟨_, rfl, .replyTooLong n hn⟩
    · exact .inr ⟨_, rfl, .unwrittenPayload n hr⟩
    · exact .inl rfl
  | push b =>
    rcases execPush_cases b s with ⟨hp, h'⟩ | ⟨_, h'⟩ <;> rw [exec, h'] at h <;> cases h
    · exact .inr ⟨_, rfl, .overrun b hp⟩
    · exact .inl rfl
  | complete =>
    simp only [exec, execComplete] at h
    cases hb : s.busy <;> rw [hb] at h <;> cases h
    · exact .inr ⟨_, rfl, .completeWhileIdle hb⟩
    · exact .inl rfl
  | illformedAccess a =>
    simp only [exec, execIllformedAccess] at h
    split at h <;> cases h <;> exact .inr ⟨_, rfl, .illformedAccess a⟩
  | rdfs j =>
    cases h
    exact (windowRead_faults s.fs j s).imp id fun ⟨hf, hr⟩ => ⟨_, hf, .unwrittenFrame j hr⟩
  | rdrb j =>
    cases h
    exact (windowRead_faults s.rb j s).imp id fun ⟨hf, hr⟩ => ⟨_, hf, .unwrittenReply j hr⟩
  | reservedOpLow v => cases h; exact .inr ⟨_, rfl, .reservedOpLow v⟩
  | reservedOpHigh v => cases h; exact .inr ⟨_, rfl, .reservedOpHigh v⟩
  | illformedRsv v => cases h; exact .inr ⟨_, rfl, .illformedRsv v⟩
  | _ => cases h; exact .inl rfl

/-! ### What the recorded faults do to the sticky bits -/

/-- Every instruction but RESET sets the sticky bits of the fault it records, and no others (R300, R305). -/
theorem exec_sticky {i : Instr} {s t : State} (h : exec i s = .next t) (hi : i ≠ .reset) :
    (t.badop = s.badop ∧ t.seqerr = s.seqerr) ∨
      ∃ f, Raises s i f ∧ t.faults = s.faults ++ [f] ∧
        t.badop = (s.badop || f.setsBadop) ∧ t.seqerr = (s.seqerr || f.setsSeqerr) := by
  have raised : ∀ f, t.faults = s.faults ++ [f] → Raises s i f := by
    intro f hf
    rcases exec_faults h with h0 | ⟨g, hg, hr⟩
    · simp [h0] at hf
    · simp only [hg, List.append_cancel_left_eq, List.cons.injEq, and_true] at hf
      exact hf ▸ hr
  cases exec_cases i s t h with
  | reset => exact absurd rfl hi
  | fault _ f => exact .inr ⟨f, raised f rfl, rfl, rfl, rfl⟩
  | faultReturned _ f => exact .inr ⟨f, raised f rfl, rfl, rfl, rfl⟩
  | poll _ _ hp => exact .inl ⟨hp.badop_eq, hp.seqerr_eq⟩
  | _ => exact .inl ⟨rfl, rfl⟩

/-- Settles O48: a recorded fault only adds to the sticky bits. -/
theorem onlyResetClearsStickyBits : Obligations.OnlyResetClearsStickyBits := by
  intro i s t h hi
  rcases exec_sticky h hi with ⟨hb, hq⟩ | ⟨f, _, _, hb, hq⟩
  · rw [hb, hq]
    exact ⟨id, id⟩
  · rw [hb, hq]
    exact ⟨fun h => by simp [h], fun h => by simp [h]⟩

/-! ### The record behind a set sticky bit -/

/-- The record after an instruction extends the record before it (R11). -/
theorem exec_keeps_faults {i : Instr} {s t : State} (h : exec i s = .next t) {f : Fault} (hf : f ∈ s.faults) : f ∈ t.faults := by
  rcases exec_faults h with h0 | ⟨g, hg, _⟩
  · rwa [h0]
  · simp [hg, hf]

/-- An instruction keeps a set sticky bit backed: it was backed before, or the new fault backs it; RESET clears both bits (R340). -/
theorem exec_keeps_stickyRecorded {i : Instr} {s t : State} (h : exec i s = .next t) (hs : stickyRecorded s) :
    stickyRecorded t := by
  obtain ⟨hbadop, hseqerr⟩ := hs
  have keep : ∀ p : Fault → Bool, (∃ f ∈ s.faults, p f = true) → ∃ f ∈ t.faults, p f = true :=
    fun p ⟨f, hf, hp⟩ => ⟨f, exec_keeps_faults h hf, hp⟩
  by_cases hi : i = .reset
  · subst hi
    cases h
    constructor <;> simp
  rcases exec_sticky h hi with ⟨hb, hq⟩ | ⟨f, _, hf, hb, hq⟩
  · exact ⟨fun h => keep _ (hbadop (hb ▸ h)), fun h => keep _ (hseqerr (hq ▸ h))⟩
  · have backed : ∀ (p : Fault → Bool) (b : Bool), (b = true → ∃ g ∈ s.faults, p g = true) →
        (b || p f) = true → ∃ g ∈ t.faults, p g = true := by
      intro p b hold hnew
      rw [Bool.or_eq_true] at hnew
      exact hnew.elim (fun h => keep p (hold h)) fun h => ⟨f, by simp [hf], h⟩
    exact ⟨fun h => backed _ _ hbadop (hb ▸ h), fun h => backed _ _ hseqerr (hq ▸ h)⟩

/-- Settles O55, by the cases of a step; the script plays no part in the record. -/
theorem stickyBitsStayRecorded : Obligations.StickyBitsStayRecorded := by
  intro s t hs h
  rcases step_cases s t h with ⟨_, rfl⟩ | ⟨r, rest, i, _, _, hx⟩ | ⟨r, rest, _, _, rfl⟩
  · exact hs
  · exact exec_keeps_stickyRecorded hx hs
  · exact hs

end Sys2Proof.Machine
end

section
/-! The writers of each element (10_state.md R20 to R32): one lemma per element or group, then the statements. -/

namespace Sys2Proof.Machine

section
variable {i : Instr} {s t : State}

/-- What an instruction appends to `TX` (R32). -/
theorem exec_tx (h : exec i s = .next t) : ∃ out, t.tx = s.tx ++ out ∧ (out ≠ [] → ∃ n, i = .reply n) := by
  cases exec_cases i s t h with
  | reply n payload => exact ⟨_, rfl, fun _ => ⟨n, rfl⟩⟩
  | poll _ _ hp => exact ⟨[], by simp [hp.tx_eq], by simp⟩
  | _ => exact ⟨[], by simp, by simp⟩

theorem tx_writer (h : exec i s = .next t) (ht : t.tx ≠ s.tx) : ∃ n, i = .reply n := by
  obtain ⟨out, hout, hr⟩ := exec_tx h
  exact hr fun h0 => ht (by simp [hout, h0])

theorem wptr_writer (h : exec i s = .next t) (hi : i ≠ .reset) (ht : t.wptr ≠ s.wptr) : ∃ b, i = .push b := by
  cases exec_cases i s t h with
  | push b => exact ⟨b, rfl⟩
  | poll _ _ hp => exact absurd hp.wptr_eq ht
  | reset => exact absurd rfl hi
  | _ => exact absurd rfl ht

theorem ring_writer (h : exec i s = .next t) (hi : i ≠ .reset) (ht : t.ring ≠ s.ring) : (∃ b, i = .push b) ∨ i = .poll := by
  cases exec_cases i s t h with
  | push b => exact .inl ⟨b, rfl⟩
  | poll => exact .inr rfl
  | reset => exact absurd rfl hi
  | _ => exact absurd rfl ht

theorem rb_writer (h : exec i s = .next t) (hi : i ≠ .reset) (ht : t.rb ≠ s.rb) :
    (∃ j v, i = .wrb j v) ∨ ∃ n, i = .reply n := by
  cases exec_cases i s t h with
  | windowWrite j v => exact .inl ⟨j, v, rfl⟩
  | reply n => exact .inr ⟨n, rfl⟩
  | poll _ _ hp => exact absurd hp.rb_eq ht
  | reset => exact absurd rfl hi
  | _ => exact absurd rfl ht

/-- Outside POLL only a command row latches `BUSY`, and no agent issues one (R30, log entry 4). -/
theorem busy_writer (ha : (encode i).fromAgent = true) (h : exec i s = .next t) (hi : i ≠ .reset) (ht : t.busy ≠ s.busy) :
    i = .poll ∨ i = .complete := by
  cases exec_cases i s t h with
  | poll => exact .inl rfl
  | complete => exact .inr rfl
  | reset => exact absurd rfl hi
  | latch _ _ _ _ hn => simp [ha] at hn
  | _ => exact absurd rfl ht

theorem badop_writer (h : exec i s = .next t) (hi : i ≠ .reset) (ht : t.badop ≠ s.badop) :
    (∃ n, i = .reply n ∧ 256 < n.toNat) ∨ (∃ v, i = .reservedOpLow v) ∨ (∃ v, i = .reservedOpHigh v) ∨
      (∃ v, i = .illformedRsv v) ∨ ∃ a, i = .illformedAccess a := by
  rcases exec_sticky h hi with ⟨hb, _⟩ | ⟨f, hf, _, hb, _⟩
  · exact absurd hb ht
  have sets : f.setsBadop = true := by
    by_contra hn
    simp [hb, hn] at ht
  cases hf with
  | replyTooLong n hn => exact .inl ⟨n, rfl, hn⟩
  | reservedOpLow v => exact .inr (.inl ⟨v, rfl⟩)
  | reservedOpHigh v => exact .inr (.inr (.inl ⟨v, rfl⟩))
  | illformedRsv v => exact .inr (.inr (.inr (.inl ⟨v, rfl⟩)))
  | illformedAccess a => exact .inr (.inr (.inr (.inr ⟨a, rfl⟩)))
  | _ => cases sets

theorem seqerr_writer (h : exec i s = .next t) (hi : i ≠ .reset) (ht : t.seqerr ≠ s.seqerr) :
    (i = .poll ∧ s.busy = true) ∨ (i = .complete ∧ s.busy = false) := by
  rcases exec_sticky h hi with ⟨_, hq⟩ | ⟨f, hf, _, _, hq⟩
  · exact absurd hq ht
  have sets : f.setsSeqerr = true := by
    by_contra hn
    simp [hq, hn] at ht
  cases hf with
  | pollWhileBusy hb => exact .inl ⟨rfl, hb⟩
  | completeWhileIdle hb => exact .inr ⟨rfl, hb⟩
  | _ => cases sets

/-- The elements only a POLL writes (R21, R24, R26 to R29): the rows of the block's own decodes write some too, but no agent issues one
(log entry 4). -/
theorem poll_only_elements (ha : (encode i).fromAgent = true) (h : exec i s = .next t) (hi : i ≠ .reset) (hp : i ≠ .poll) :
    t.rptr = s.rptr ∧ t.wSnap = s.wSnap ∧ t.enc = s.enc ∧ t.result = s.result ∧ t.fs = s.fs ∧
      t.cmdId = s.cmdId ∧ t.fsize = s.fsize ∧ t.sel = s.sel := by
  cases exec_cases i s t h with
  | poll => exact absurd rfl hp
  | reset => exact absurd rfl hi
  | latch _ _ _ _ hn => simp [ha] at hn
  | toggle _ _ hn => simp [ha] at hn
  | _ => exact ⟨rfl, rfl, rfl, rfl, rfl, rfl, rfl, rfl⟩

end

/-- Settles O49, from what an instruction appends. -/
theorem onlyReplyAppendsToTx : Obligations.OnlyReplyAppendsToTx := ⟨reset_tx, fun _ _ _ => exec_tx⟩

/-- Settles O50, an element at a time. -/
theorem everyElementHasItsWriters : Obligations.EveryElementHasItsWriters := fun _ _ _ ha h hi =>
  ⟨wptr_writer h hi, ring_writer h hi, rb_writer h hi, busy_writer ha h hi, badop_writer h hi, seqerr_writer h hi,
    tx_writer h, poll_only_elements ha h hi⟩

/-- Settles O15: each element by the law of its reset value; STATUS is then `ENC` alone, at bit 3. -/
theorem stateAfterReset : Obligations.StateAfterReset :=
  ⟨reset_enc, reset_rptr, reset_wptr, reset_wSnap, reset_result, reset_busy, reset_cmdId, reset_fsize, reset_sel, reset_badop,
    reset_seqerr, Memory.read_nil, Memory.read_nil, Memory.read_nil, reset_tx, reset_faults, by decide⟩

end Sys2Proof.Machine
end

section
/-! Which host accesses the register map allows (10_state.md R34, R39; 20_memory.md R52), and what they decode to. -/

namespace Sys2Proof

/-! ### The classes of allowed accesses, in the words of the map -/

section
variable (a : Access)

theorem Access.isRegisterRead_iff : a.isRegisterRead = true ↔
    a.dir = .read ∧ a.bytes = 4 ∧ (a.offset = 0 ∨ a.offset = 4 ∨ a.offset = 8 ∨ a.offset = 12 ∨ a.offset = 16) := by
  simp [Access.isRegisterRead, registerOffsets, and_assoc]

theorem Access.isCtrlWrite_iff : a.isCtrlWrite = true ↔ a.dir = .write ∧ a.bytes = 4 ∧ a.offset = 0 := by
  simp [Access.isCtrlWrite, and_assoc]

theorem Access.isFrameRead_iff : a.isFrameRead = true ↔ a.dir = .read ∧ a.bytes = 1 ∧ 0x100 ≤ a.offset ∧ a.offset < 0x200 := by
  simp [Access.isFrameRead, and_assoc]

theorem Access.isReplyRead_iff : a.isReplyRead = true ↔ a.dir = .read ∧ a.bytes = 1 ∧ 0x200 ≤ a.offset ∧ a.offset < 0x300 := by
  simp [Access.isReplyRead, and_assoc]

theorem Access.isReplyWrite_iff : a.isReplyWrite = true ↔ a.dir = .write ∧ a.bytes = 1 ∧ 0x200 ≤ a.offset ∧ a.offset < 0x300 := by
  simp [Access.isReplyWrite, and_assoc]

/-- The accesses of the map: the two windows are adjacent, so a byte read is allowed from 0x100 up to 0x300 (R34, R38). -/
theorem Access.wellFormed_iff : a.wellFormed = true ↔
    (a.dir = .read ∧ a.bytes = 4 ∧ (a.offset = 0 ∨ a.offset = 4 ∨ a.offset = 8 ∨ a.offset = 12 ∨ a.offset = 16)) ∨
      (a.dir = .write ∧ a.bytes = 4 ∧ a.offset = 0) ∨
      (a.dir = .read ∧ a.bytes = 1 ∧ 0x100 ≤ a.offset ∧ a.offset < 0x300) ∨
      (a.dir = .write ∧ a.bytes = 1 ∧ 0x200 ≤ a.offset ∧ a.offset < 0x300) := by
  simp only [Access.wellFormed, Bool.or_eq_true, isRegisterRead_iff, isCtrlWrite_iff, isFrameRead_iff, isReplyRead_iff,
    isReplyWrite_iff]
  have windows : (0x100 ≤ a.offset ∧ a.offset < 0x300) ↔
      (0x100 ≤ a.offset ∧ a.offset < 0x200) ∨ (0x200 ≤ a.offset ∧ a.offset < 0x300) := by omega
  simp only [windows, and_or_left, or_assoc]

/-! ### No allowed access is ILLFORMED_ACCESS -/

theorem decodeRegisterRead_ne_illformedAccess (offset : Nat) (b : Access) : decodeRegisterRead offset ≠ .illformedAccess b := by
  unfold decodeRegisterRead
  repeat' split
  all_goals simp

theorem decodeCtrl_ne_illformedAccess (v : Word) (b : Access) : decodeCtrl v ≠ .illformedAccess b := by
  rcases decodeCtrl_cases v with ⟨_, h⟩ | ⟨_, _, h⟩ | ⟨_, _, h⟩ | ⟨_, h⟩ | ⟨_, h⟩ | ⟨_, h⟩ | ⟨_, h⟩ <;> simp [h]

theorem decodeAccess_eq_illformedAccess_iff : decodeAccess a = .illformedAccess a ↔ ¬ a.wellFormed = true := by
  rcases decodeAccess_cases a with ⟨hc, h⟩ | ⟨hc, h⟩ | ⟨hc, h⟩ | ⟨hc, h⟩ | ⟨hc, h⟩ | ⟨hc, h⟩
  · simp [h, Access.wellFormed, hc, decodeRegisterRead_ne_illformedAccess]
  · simp [h, Access.wellFormed, hc, decodeCtrl_ne_illformedAccess]
  · simp [h, Access.wellFormed, hc]
  · simp [h, Access.wellFormed, hc]
  · simp [h, Access.wellFormed, hc]
  · simp [h, hc]

end

/-! ### The window bytes -/

/-- A window starts at a multiple of 0x100, so the low byte of an offset in it is the index. -/
theorem ofNat_window_offset (base : Nat) (hb : base % 256 = 0) (j : BitVec 8) : BitVec.ofNat 8 (base + j.toNat) = j := by
  apply BitVec.eq_of_toNat_eq
  have := j.isLt
  rw [BitVec.toNat_ofNat]
  omega

theorem decodeAccess_frameRead (j : BitVec 8) (data : Word) : decodeAccess ⟨.read, 1, 0x100 + j.toNat, data⟩ = .rdfs j := by
  have window : 0x100 + j.toNat < 0x200 := by have := j.isLt; omega
  simp [decodeAccess, Access.isRegisterRead, Access.isCtrlWrite, Access.isFrameRead, window, ofNat_window_offset]

theorem decodeAccess_replyRead (j : BitVec 8) (data : Word) : decodeAccess ⟨.read, 1, 0x200 + j.toNat, data⟩ = .rdrb j := by
  have window : 0x200 + j.toNat < 0x300 := by have := j.isLt; omega
  simp [decodeAccess, Access.isRegisterRead, Access.isCtrlWrite, Access.isFrameRead, Access.isReplyRead, window,
    ofNat_window_offset]

theorem decodeAccess_replyWrite (j : BitVec 8) (data : Word) :
    decodeAccess ⟨.write, 1, 0x200 + j.toNat, data⟩ = .wrb j (data.extractLsb' 0 8) := by
  have window : 0x200 + j.toNat < 0x300 := by have := j.isLt; omega
  simp [decodeAccess, Access.isRegisterRead, Access.isCtrlWrite, Access.isFrameRead, Access.isReplyRead, Access.isReplyWrite,
    window, ofNat_window_offset]

/-- Settles O4: the ill-formed accesses by the map, the registers by evaluation at their offsets, the windows byte by byte. -/
theorem accessesOutsideTheMapAreIllFormed : Obligations.AccessesOutsideTheMapAreIllFormed :=
  ⟨fun a => (decodeAccess_eq_illformedAccess_iff a).trans (not_congr a.wellFormed_iff),
    fun _ => ⟨rfl, rfl, rfl, rfl, rfl, rfl⟩,
    fun j data => ⟨decodeAccess_frameRead j data, decodeAccess_replyRead j data, decodeAccess_replyWrite j data⟩⟩

end Sys2Proof
end

section
/-! What keeps the three memories in canonical form and the pending bytes written (20_memory.md R55, R59, R60; 10_state.md R20 to R24): first
how far a POLL moves the read cursor and what it writes in `RING` and `FS`, then each invariant over an instruction and over a step. -/

namespace Sys2Proof.Machine

/-- A property of the state that does not see the script, and that every instruction keeps, is kept by a step. -/
theorem step_keeps {P : State → Prop} (hscript : ∀ s rest, P s → P (s.withScript rest))
    (hexec : ∀ i s t, P s → exec i s = .next t → P t) {s t : State} (hs : P s) (h : step s = .next t) : P t := by
  rcases step_cases s t h with ⟨_, rfl⟩ | ⟨_, rest, i, _, _, hx⟩ | ⟨_, rest, _, _, rfl⟩
  · exact hs
  · exact hexec i _ t (hscript s rest hs) hx
  · exact hscript s rest hs

/-! ### The pending span -/

/-- The ring index just past the pending bytes is `WPTR`'s (R23, R36). -/
theorem ringIndex_pendingLength (s : State) : ringIndex s.rptr (pendingLength s) = s.wptr.toNat :=
  congrArg BitVec.toNat (add_pendingCount s.rptr s.wptr)

/-- Short of a full ring, one more byte pushed is one more byte pending (R232, R233). -/
theorem pendingCount_push (p w : Cursor) (h : pendingCount p w ≠ Config.ringCapacity - 1) :
    pendingCount p (w + 1) = pendingCount p w + 1 := by
  rw [ringCapacity_eq] at h
  unfold pendingCount at *
  bv_omega

/-- A scan that stops leaves the read cursor at most at the sampled write cursor (R101, R103, R116). -/
theorem PhaseOne.stop_advances {s : State} {r : PollResult} {p : Cursor} (h : PhaseOne s (.stop r p)) :
    ∃ k, k ≤ pendingLength s ∧ p = s.rptr + BitVec.ofNat 8 k := by
  have all : ∃ k, k ≤ pendingLength s ∧ s.wptr = s.rptr + BitVec.ofNat 8 k :=
    ⟨pendingLength s, le_rfl, (add_pendingCount s.rptr s.wptr).symm⟩
  cases h with
  | noData => exact ⟨0, Nat.zero_le _, by simp⟩
  | noMarker => exact all
  | tooShort k hc => exact ⟨k, hc.1.1.le, rfl⟩
  | overflow => exact all
  | incomplete k size hc => exact ⟨k, hc.1.1.le, rfl⟩
  | badFooter => exact all

section
variable {s t : State} (h : PollCase s t)
include h

/-- A POLL moves the read cursor over pending bytes only (R116). -/
theorem PollCase.advances : ∃ k, k ≤ pendingLength s ∧ t.rptr = s.rptr + BitVec.ofNat 8 k := by
  cases h with
  | stop r p hp => exact hp.stop_advances
  | unwritten => exact ⟨0, Nat.zero_le _, by simp⟩
  | frame k size raw hf =>
    obtain ⟨⟨⟨hk, _⟩, _⟩, _, _, _, hlen, _⟩ := hf
    exact ⟨k + (size.toNat + 8), by omega, by simp [BitVec.ofNat_add, BitVec.add_assoc]⟩

/-- What a POLL does to `RING`: nothing, or zero-fill inside the pending span (R60, R112). -/
theorem PollCase.ring_cases : t.ring = s.ring ∨
    ∃ k n, k + n ≤ pendingLength s ∧ t.ring = zeroFill s.ring (s.rptr + BitVec.ofNat 8 k) n := by
  cases h with
  | stop => exact .inl rfl
  | unwritten => exact .inl rfl
  | frame k size raw hf =>
    obtain ⟨⟨⟨hk, _⟩, _⟩, _, _, _, hlen, _⟩ := hf
    exact .inr ⟨k, size.toNat + 8, by omega, by simp⟩

/-- What a POLL does to `FS`: nothing, or a region that fits stored from index 0 (R21, R75, R111). -/
theorem PollCase.fs_cases : t.fs = s.fs ∨
    ∃ region : List Byte, region.length ≤ Config.frameCapacity ∧ t.fs = storeFromZero s.fs region := by
  cases h with
  | stop => exact .inl rfl
  | unwritten => exact .inl rfl
  | frame k size raw hf =>
    obtain ⟨_, _, _, hsize, _, _, hraw, _⟩ := hf
    rw [ringCapacity_eq] at hsize
    exact .inr ⟨clearedRegion s.enc raw, by rw [clearedRegion_length, frameCapacity_eq]; omega, by simp⟩

/-- A POLL leaves every ring byte outside the pending span alone (R59, R60). -/
theorem PollCase.read_ring_outside {a : Nat} (ha : ∀ k, k < pendingLength s → a ≠ ringIndex s.rptr k) :
    Memory.read t.ring a = Memory.read s.ring a := by
  rcases h.ring_cases with hr | ⟨k, n, hn, hr⟩
  · rw [hr]
  · have outside : a ∉ ringSpan (s.rptr + BitVec.ofNat 8 k) n := by
      rw [mem_ringSpan]
      rintro ⟨j, hj, hja⟩
      exact ha (k + j) (by omega) (by rw [← hja, ringIndex_add])
    rw [hr, read_zeroFill, if_neg outside]

/-- A ring byte that has been written stays so over a POLL: a zero-filled byte counts as written (R20, R59). -/
theorem PollCase.ring_written {a : Nat} (ha : Memory.read s.ring a ≠ none) : Memory.read t.ring a ≠ none := by
  rcases h.ring_cases with hr | ⟨k, n, _, hr⟩ <;> rw [hr]
  · exact ha
  · exact Memory.writeAll_written _ _ _ ha

theorem PollCase.keeps_ring_wf (hs : Memory.wf Config.ringCapacity s.ring = true) :
    Memory.wf Config.ringCapacity t.ring = true := by
  rcases h.ring_cases with hr | ⟨k, n, _, hr⟩ <;> rw [hr]
  · exact hs
  · exact zeroFill_wf _ _ _ hs

theorem PollCase.keeps_fs_wf (hs : Memory.wf Config.frameCapacity s.fs = true) :
    Memory.wf Config.frameCapacity t.fs = true := by
  rcases h.fs_cases with hf | ⟨region, hfits, hf⟩ <;> rw [hf]
  · exact hs
  · exact storeFromZero_wf _ _ _ hs hfits

end

/-- Settles O36: only a POLL that takes a frame writes the ring, and it writes inside the pending span. -/
theorem pollWritesOnlyPendingRingBytes : Obligations.PollWritesOnlyPendingRingBytes := by
  intro s t a h ha
  cases exec_cases _ s t h with
  | poll _ _ hp => exact hp.read_ring_outside ha
  | _ => rfl

/-! ### The canonical form -/

/-- A REPLY stores back at most the bytes it read, which lie in `RB` (R210, R212). -/
theorem sendReply_rb_wf {s : State} {n : U16} {payload : List Byte} (hn : n.toNat ≤ Config.replyCapacity)
    (hp : Memory.readAll s.rb (List.range n.toNat) = some payload) (hs : Memory.wf Config.replyCapacity s.rb = true) :
    Memory.wf Config.replyCapacity (sendReply n payload s).rb = true := by
  have hlen : payload.length = n.toNat := by simpa using Memory.readAll_length _ _ _ hp
  rw [sendReply_rb]
  split
  · exact storeFromZero_wf _ _ _ hs (by simpa [hlen] using hn)
  · exact hs

theorem exec_keeps_memoriesCanonical (i : Instr) (s t : State) (hs : memoriesCanonical s) (h : exec i s = .next t) :
    memoriesCanonical t := by
  obtain ⟨hring, hfs, hrb⟩ := hs
  cases exec_cases i s t h with
  | poll _ _ hp => exact ⟨hp.keeps_ring_wf hring, hp.keeps_fs_wf hfs, hp.rb_eq ▸ hrb⟩
  | reply n payload hn hp => exact ⟨hring, hfs, sendReply_rb_wf hn hp hrb⟩
  | push b => exact ⟨Memory.write_wf _ _ _ _ hring s.wptr.isLt, hfs, hrb⟩
  | windowWrite j v => exact ⟨hring, hfs, Memory.write_wf _ _ _ _ hrb j.isLt⟩
  | reset => exact ⟨Memory.wf_nil _, Memory.wf_nil _, Memory.wf_nil _⟩
  | _ => exact ⟨hring, hfs, hrb⟩

/-- Settles O52: the memories' writers are POLL, REPLY, PUSH, WRB and RESET, and each writes inside the index space. -/
theorem memoriesStayCanonical : Obligations.MemoriesStayCanonical := fun _ _ =>
  step_keeps (fun _ _ => id) exec_keeps_memoriesCanonical

/-! ### Written pending bytes -/

/-- A POLL only shortens the pending span, from its front. -/
theorem PollCase.keeps_pendingWritten {s t : State} (h : PollCase s t) (hs : pendingWritten s) : pendingWritten t := by
  obtain ⟨k, hk, hrptr⟩ := h.advances
  have hlen : pendingLength t = pendingLength s - k := by
    rw [pendingLength, hrptr, h.wptr_eq]
    exact pendingCount_add _ _ _ hk
  intro j hj
  rw [pendingByte, hrptr, ringByte_add]
  exact h.ring_written (hs (k + j) (by omega))

/-- A PUSH adds the byte at `WPTR` to the end of the pending span, and that byte it has just written. -/
theorem push_keeps_pendingWritten (b : Byte) {s : State} (hs : pendingWritten s)
    (hroom : pendingLength s ≠ Config.ringCapacity - 1) :
    pendingWritten { s with ring := Memory.write s.ring s.wptr.toNat b, wptr := s.wptr + 1 } := by
  intro j hj
  have hj' : j < pendingLength s + 1 := (pendingCount_push _ _ hroom).subst hj
  change Memory.read (Memory.write s.ring s.wptr.toNat b) (ringIndex s.rptr j) ≠ none
  rcases Nat.lt_succ_iff_lt_or_eq.1 hj' with hold | rfl
  · exact Memory.write_written _ _ _ _ (hs j hold)
  · simp [ringIndex_pendingLength]

theorem exec_keeps_pendingWritten (i : Instr) (s t : State) (hs : pendingWritten s) (h : exec i s = .next t) :
    pendingWritten t := by
  cases exec_cases i s t h with
  | poll _ _ hp => exact hp.keeps_pendingWritten hs
  | push b hroom => exact push_keeps_pendingWritten b hs hroom
  | reset =>
    intro k hk
    simp [pendingLength, pendingCount_self] at hk
  | _ => exact hs

/-- Settles O53: POLL, PUSH and RESET are the instructions that change `RING` or a cursor. -/
theorem pendingBytesStayWritten : Obligations.PendingBytesStayWritten := fun _ _ =>
  step_keeps (fun _ _ => id) exec_keeps_pendingWritten

end Sys2Proof.Machine
end

section
/-! Requests and instructions (30_encoding.md R80 to R85, 41_cipher.md R142, 43_dispatch.md R181): the decoders against the encoder, class by
class, then both directions of the round trip and the table of the command words as their consequences. -/

namespace Sys2Proof

/-! ### The multiplexer's ids -/

/-- An id that no row of R181 has is decoded as unimplemented (R190). -/
theorem decodeCommand_of_not_mem {id : U16} (h : id ∉ commandIds) (size : U16) :
    decodeCommand id size = .cmdUnimplemented id size := by
  simp only [commandIds, List.mem_cons, List.not_mem_nil, or_false, not_or] at h
  simp [decodeCommand, h]

/-- What the multiplexer's decoder can answer, said once (R181, R190). -/
theorem decodeCommand_cases (id size : U16) :
    (id ∉ commandIds ∧ decodeCommand id size = .cmdUnimplemented id size) ∨
    (id = Config.device.ids.versionQuery ∧ decodeCommand id size = .cmdVersionQuery size) ∨
    (id = Config.device.ids.eepromRead ∧ decodeCommand id size = .cmdEepromRead size) ∨
    (id = Config.device.ids.eepromWrite ∧ decodeCommand id size = .cmdEepromWrite size) ∨
    (id = Config.device.ids.rfTelemetryRead ∧ decodeCommand id size = .cmdRfTelemetryRead size) ∨
    (id = Config.device.ids.batteryTelemetryRead ∧ decodeCommand id size = .cmdBatteryTelemetryRead size) ∨
    (id = Config.device.ids.challengeResponse ∧ decodeCommand id size = .cmdChallengeResponse size) ∨
    (id = Config.device.ids.reconfigure ∧ decodeCommand id size = .cmdReconfigure size) ∨
    (id = Config.device.ids.reboot ∧ decodeCommand id size = .cmdReboot size) := by
  by_cases h : id ∈ commandIds
  · simp only [commandIds, List.mem_cons, List.not_mem_nil, or_false] at h
    rcases h with rfl | rfl | rfl | rfl | rfl | rfl | rfl | rfl <;> simp [decodeCommand, Config.device]
  · simp [h, decodeCommand_of_not_mem h]

/-- The multiplexer's answer stands for the id and the size it was given. -/
theorem wf_encode_decodeCommand (id : U16) {size : U16} (hs : extractableSize size = true) :
    (decodeCommand id size).wf = true ∧ encode (decodeCommand id size) = .command id size := by
  rcases decodeCommand_cases id size with
    ⟨hid, h⟩ | ⟨rfl, h⟩ | ⟨rfl, h⟩ | ⟨rfl, h⟩ | ⟨rfl, h⟩ | ⟨rfl, h⟩ | ⟨rfl, h⟩ | ⟨rfl, h⟩ | ⟨rfl, h⟩ <;> rw [h]
  · exact ⟨by simp [Instr.wf, hs, hid], rfl⟩
  all_goals exact ⟨hs, rfl⟩

/-- A command request of an extractable size is decoded by the multiplexer (R75, R83). -/
theorem decode_command (id : U16) {size : U16} (hs : extractableSize size = true) :
    decode (.command id size) = .ok (decodeCommand id size) := if_pos hs

/-! ### The command words -/

theorem decode_ctrlWrite (v : Word) : decode (ctrlWrite v) = .ok (decodeCtrl v) := rfl

theorem ctrlWrite_injective : Function.Injective ctrlWrite := by
  intro v w h
  simpa [ctrlWrite] using h

/-- Every command word is that of a well-formed instruction, the one it decodes to (R80 to R82). -/
theorem wf_encode_decodeCtrl (v : Word) : (decodeCtrl v).wf = true ∧ encode (decodeCtrl v) = ctrlWrite v := by
  rcases decodeCtrl_cases v with ⟨h8, h⟩ | ⟨h4, h8, h⟩ | ⟨h4, hr, h⟩ | ⟨hv, h⟩ | ⟨hv, h⟩ | ⟨hv, h⟩ | ⟨hv, h⟩ <;> rw [h]
  · exact ⟨by simp [Instr.wf, h8], rfl⟩
  · exact ⟨by simp [Instr.wf, h4, h8], rfl⟩
  · exact ⟨by simpa [Instr.wf, h4] using hr, rfl⟩
  all_goals exact ⟨rfl, congrArg ctrlWrite hv.symm⟩

/-- OP 4 to 7 is the first reserved row, whatever the other fields (R231). -/
theorem decodeCtrl_reservedOpLow {v : Word} (h : (Instr.reservedOpLow v).wf = true) : decodeCtrl v = .reservedOpLow v := by
  simp only [Instr.wf, Bool.and_eq_true, decide_eq_true_eq] at h
  obtain ⟨h4, h8⟩ := h
  rw [decodeCtrl, if_neg (by omega), if_pos h4]

/-- OP 8 to 15 is the second reserved row, whatever the other fields (R231). -/
theorem decodeCtrl_reservedOpHigh {v : Word} (h : (Instr.reservedOpHigh v).wf = true) : decodeCtrl v = .reservedOpHigh v :=
  if_pos (of_decide_eq_true h)

/-- A non-zero reserved field, or a length that the operation does not take, makes a word ill-formed (R82, R236). -/
theorem decodeCtrl_illformedRsv {v : Word} (h : (Instr.illformedRsv v).wf = true) : decodeCtrl v = .illformedRsv v := by
  simp only [Instr.wf, Bool.and_eq_true, decide_eq_true_eq, Bool.or_eq_true, bne_iff_ne] at h
  obtain ⟨h4, hr⟩ := h
  rw [decodeCtrl, if_neg (by omega), if_neg (by omega), if_pos hr]

theorem decodeCtrl_reply (len : U16) : decodeCtrl (Machine.commandWord 2 len) = .reply len := by
  simp [decodeCtrl]

/-! ### Decode after encode -/

/-- Settles O1, row by row: the fixed requests by evaluation, the others by their decoder's lemma. -/
theorem decodeOfEncodeIsTheInstruction : Obligations.DecodeOfEncodeIsTheInstruction := by
  intro i h
  cases i with
  | reply len => exact congrArg Except.ok (decodeCtrl_reply len)
  | reservedOpLow v => exact congrArg Except.ok (decodeCtrl_reservedOpLow h)
  | reservedOpHigh v => exact congrArg Except.ok (decodeCtrl_reservedOpHigh h)
  | illformedRsv v => exact congrArg Except.ok (decodeCtrl_illformedRsv h)
  | cmdUnimplemented id size =>
    simp only [Instr.wf, Bool.and_eq_true, Bool.not_eq_true', List.contains_eq_mem, decide_eq_false_iff_not] at h
    obtain ⟨hs, hid⟩ := h
    exact (decode_command id hs).trans (congrArg Except.ok (decodeCommand_of_not_mem hid size))
  | cmdVersionQuery size => exact decode_command _ h
  | cmdEepromRead size => exact decode_command _ h
  | cmdEepromWrite size => exact decode_command _ h
  | cmdRfTelemetryRead size => exact decode_command _ h
  | cmdBatteryTelemetryRead size => exact decode_command _ h
  | cmdChallengeResponse size => exact decode_command _ h
  | cmdReconfigure size => exact decode_command _ h
  | cmdReboot size => exact decode_command _ h
  | rdfs j => exact congrArg Except.ok (decodeAccess_frameRead j 0)
  | rdrb j => exact congrArg Except.ok (decodeAccess_replyRead j 0)
  | wrb j v =>
    have low : (v.zeroExtend 32).extractLsb' 0 8 = v := by ext k hk; simp [hk]; omega
    exact congrArg Except.ok ((decodeAccess_replyWrite j _).trans (by rw [low]))
  | illformedAccess a =>
    exact congrArg Except.ok ((decodeAccess_eq_illformedAccess_iff a).2 (by simpa [Instr.wf] using h))
  | _ => rfl

/-! ### Encode after decode -/

/-- A register read stands for itself, with its data cleared (R34, R234). -/
theorem wf_encode_decodeRegisterRead {a : Access} (ha : a.isRegisterRead = true) :
    (decodeRegisterRead a.offset).wf = true ∧ encode (decodeRegisterRead a.offset) = .host a.canonical := by
  have hc : a.canonical = ⟨a.dir, a.bytes, a.offset, 0⟩ := by simp [Access.canonical, ha]
  obtain ⟨hd, hb, ho⟩ := a.isRegisterRead_iff.1 ha
  rw [hc, hd, hb]
  rcases ho with ho | ho | ho | ho | ho <;> rw [ho] <;> exact ⟨rfl, rfl⟩

/-- An offset in the window at `base` is `base` plus the index in its low byte. -/
theorem add_toNat_ofNat_of_window {base offset : Nat} (hb : base % 256 = 0) (hl : base ≤ offset) (hu : offset < base + 256) :
    base + (BitVec.ofNat 8 offset).toNat = offset := by
  rw [BitVec.toNat_ofNat]
  omega

/-- Every host access stands for a well-formed instruction, whose request is the access in its canonical form (R52; log entry 18). -/
theorem wf_encode_decodeAccess (a : Access) :
    (decodeAccess a).wf = true ∧ encode (decodeAccess a) = .host a.canonical := by
  rcases decodeAccess_cases a with ⟨ha, h⟩ | ⟨ha, h⟩ | ⟨ha, h⟩ | ⟨ha, h⟩ | ⟨ha, h⟩ | ⟨ha, h⟩ <;> rw [h]
  · exact wf_encode_decodeRegisterRead ha
  · obtain ⟨dir, bytes, offset, data⟩ := a
    obtain ⟨rfl, rfl, rfl⟩ := (Access.isCtrlWrite_iff _).1 ha
    exact wf_encode_decodeCtrl data
  · have hc : a.canonical = ⟨a.dir, a.bytes, a.offset, 0⟩ := by simp [Access.canonical, ha]
    obtain ⟨hd, hb, hl, hu⟩ := a.isFrameRead_iff.1 ha
    exact ⟨rfl, by rw [encode, hc, hd, hb, add_toNat_ofNat_of_window rfl hl hu]⟩
  · have hc : a.canonical = ⟨a.dir, a.bytes, a.offset, 0⟩ := by simp [Access.canonical, ha]
    obtain ⟨hd, hb, hl, hu⟩ := a.isReplyRead_iff.1 ha
    exact ⟨rfl, by rw [encode, hc, hd, hb, add_toNat_ofNat_of_window rfl hl hu]⟩
  · obtain ⟨hd, hb, hl, hu⟩ := a.isReplyWrite_iff.1 ha
    have hc : a.canonical = ⟨.write, 1, a.offset, (a.data.extractLsb' 0 8).zeroExtend 32⟩ := by
      simp [Access.canonical, Access.isRegisterRead, Access.isFrameRead, Access.isReplyRead, ha, hd, hb]
    exact ⟨rfl, by rw [encode, hc, add_toNat_ofNat_of_window rfl hl hu]⟩
  · have hwf : (Instr.illformedAccess a).wf = true := by simp [Instr.wf, ha]
    exact ⟨hwf, (Laws.EncodeCanonical.illformedAccess a hwf).symm⟩

/-- A raw id that toggles stands for its toggle row (R84, R142). -/
theorem wf_encode_of_decodeRawId {raw : U16} {i : Instr} (h : decodeRawId raw = some i) :
    i.wf = true ∧ encode i = .rawId raw := by
  unfold decodeRawId at h
  split at h
  · rename_i hp
    cases h
    exact ⟨rfl, by rw [hp]; rfl⟩
  · split at h
    · rename_i hr
      cases h
      exact ⟨rfl, by rw [hr]; rfl⟩
    · cases h

/-- Settles O2, by the kind of request. -/
theorem encodeOfDecodeIsTheRequest : Obligations.EncodeOfDecodeIsTheRequest := by
  intro r i h
  cases r with
  | host a => cases h; exact wf_encode_decodeAccess a
  | dma b => cases h; exact ⟨rfl, rfl⟩
  | envReset => cases h; exact ⟨rfl, rfl⟩
  | rawId raw =>
    simp only [decode] at h
    split at h <;> cases h
    exact wf_encode_of_decodeRawId ‹_›
  | command id size =>
    simp only [decode] at h
    split at h <;> cases h
    exact wf_encode_decodeCommand id ‹_›

/-! ### The table of the command words -/

/-- A command word decodes to `i` exactly when `i` is well-formed and the word is its encoding. -/
theorem decodeCtrl_eq_iff {v w : Word} {i : Instr} (hi : encode i = ctrlWrite w) :
    decodeCtrl v = i ↔ i.wf = true ∧ v = w := by
  constructor
  · rintro rfl
    obtain ⟨hwf, henc⟩ := wf_encode_decodeCtrl v
    exact ⟨hwf, ctrlWrite_injective (henc.symm.trans hi)⟩
  · rintro ⟨hwf, rfl⟩
    have hd := decodeOfEncodeIsTheInstruction i hwf
    rw [hi, decode_ctrlWrite] at hd
    exact Except.ok.inj hd

/-- REPLY's word, by its halves (R81). -/
theorem eq_commandWord_reply_iff (v : Word) (n : U16) :
    v = Machine.commandWord 2 n ↔ v.extractLsb' 0 16 = 0x0002#16 ∧ n = v.extractLsb' 16 16 := by
  have halves : v = Machine.commandWord 2 n ↔ v.toNat % 65536 = 2 ∧ n.toNat = v.toNat / 65536 := by
    have := n.isLt
    rw [← BitVec.toNat_inj, commandWord_toNat]
    simp only [BitVec.ofNat_eq_ofNat, BitVec.toNat_ofNat]
    omega
  have high : (v.extractLsb' 16 16).toNat = v.toNat / 65536 := lenField_toNat v
  rw [halves, ← BitVec.toNat_inj, ← BitVec.toNat_inj, high]
  simp [BitVec.extractLsb'_toNat]

/-- Settles O3: a word decodes to an instruction where it is its encoding, so the table is the encoder's. -/
theorem commandWordsDecodeByTheTable : Obligations.CommandWordsDecodeByTheTable := by
  intro v
  refine ⟨?_, ?_, fun n => ?_, ?_, ?_, ?_⟩
  · exact (decodeCtrl_eq_iff (i := .nop) rfl).trans (and_iff_right rfl)
  · exact (decodeCtrl_eq_iff (i := .poll) rfl).trans (and_iff_right rfl)
  · rw [decodeCtrl_eq_iff (i := .reply n) rfl, ← eq_commandWord_reply_iff]
    exact and_iff_right rfl
  · exact (decodeCtrl_eq_iff (i := .complete) rfl).trans (and_iff_right rfl)
  · rw [decodeCtrl_eq_iff (i := .reservedOpLow v) rfl, decodeCtrl_eq_iff (i := .reservedOpHigh v) rfl]
    simp only [Instr.wf, Bool.and_eq_true, decide_eq_true_eq, and_true]
    change _ ↔ 4 ≤ (Machine.opField v).toNat
    omega
  · rw [decodeCtrl_eq_iff (i := .illformedRsv v) rfl]
    simp only [Instr.wf, Bool.and_eq_true, Bool.or_eq_true, decide_eq_true_eq, bne_iff_ne, and_true]
    exact Iff.rfl

/-- Settles O5, by evaluating the decoder on each request. -/
theorem wordsOfTheSpecDecode : Obligations.WordsOfTheSpecDecode := by
  unfold Obligations.WordsOfTheSpecDecode
  decide

end Sys2Proof
end

section
/-! A step and the request it runs (30_encoding.md R86), and the command words that only set `BADOP` (R82, R231, R236). -/

namespace Sys2Proof.Machine

/-- Settles O6: the step's own case of a script whose first request decodes. -/
theorem stepRunsTheDecodedRequest : Obligations.StepRunsTheDecodedRequest := by
  intro s r rest i hs hd
  simp only [step, hs, hd]

/-- What recording BADOP_CTRL does to the state (R300). -/
theorem raiseFault_badopCtrl (s : State) :
    raiseFault .badopCtrl s = { s with badop := true, faults := s.faults ++ [.badopCtrl] } := by
  simp [raiseFault, Fault.setsBadop, Fault.setsSeqerr]

/-- Settles O9: each of the three rows records BADOP_CTRL. -/
theorem badCommandWordsOnlySetBadop : Obligations.BadCommandWordsOnlySetBadop := fun _ s =>
  have recorded := congrArg (Host.Outcome.next (φ := Fault) (ρ := Refusal)) (raiseFault_badopCtrl s)
  ⟨recorded, recorded, recorded⟩

end Sys2Proof.Machine
end

section
/-! The sender's frame, taken whole (30_encoding.md R70, R73, R74; 70_reset_and_hazards.md R350, R353): the cipher undoes itself, the sent CRC
matches, and a frame at the read cursor is what a POLL scans first. -/

namespace Sys2Proof.Machine

/-! ### The cipher undoes itself -/

/-- The transform of a byte is its own inverse at the same position (R145). -/
@[simp] theorem obf_obf (i : Nat) (b : Byte) : obf i (obf i b) = b := by
  simp [obf]

@[simp] theorem obfFrom_obfFrom (i : Nat) (bs : List Byte) : obfFrom i (obfFrom i bs) = bs := by
  induction bs generalizing i with
  | nil => rfl
  | cons b bs ih => simp [obfFrom, ih]

@[simp] theorem applyMode_applyMode (enc : Bool) (bs : List Byte) : applyMode enc (applyMode enc bs) = bs := by
  cases enc <;> simp [applyMode]

/-- A region sent in the mode that its own raw id leaves the block in is deobfuscated to what was sent (R142, R143). -/
theorem clearedRegion_applyMode {mode enc : Bool} {region : List Byte}
    (h : toggledMode (regionId (applyMode enc region)) mode = enc) : clearedRegion mode (applyMode enc region) = region := by
  rw [clearedRegion, h, applyMode_applyMode]

/-! ### The sent region -/

/-- A u16 sent in wire order is read back (R10, R50). -/
@[simp] theorem le16_lo8_hi8 (v : U16) : le16 (lo8 v) (hi8 v) = v := by
  have := v.isLt
  apply BitVec.eq_of_toNat_eq
  simp only [le16, lo8, hi8, toNat_append_add, BitVec.extractLsb'_toNat, Nat.shiftRight_eq_div_pow]
  omega

@[simp] theorem clearRegion_length (payload : List Byte) : (clearRegion payload).length = payload.length + 2 := by
  simp [clearRegion, bytesOf]

/-- The CRC of a sent region checks (R73, R161). -/
theorem crcMatches_clearRegion (payload : List Byte) : crcMatches payload.length (clearRegion payload) = true := by
  simp [crcMatches, receivedCrc, clearRegion, bytesOf]

/-! ### The sent frame, position by position -/

/-- A frame in the words of the ring: markers and size, then the region, then the footer (R70). -/
theorem inboundFrame_eq (enc : Bool) (payload : List Byte) :
    inboundFrame enc payload =
      [Config.device.markS0, Config.device.markS1, lo8 (BitVec.ofNat 16 payload.length), hi8 (BitVec.ofNat 16 payload.length)] ++
        (applyMode enc (clearRegion payload) ++ [Config.device.markF0, Config.device.markF1]) := rfl

@[simp] theorem inboundFrame_length (enc : Bool) (payload : List Byte) :
    (inboundFrame enc payload).length = payload.length + 8 := by
  simp [inboundFrame_eq]

/-- The region stands behind the four header bytes. -/
theorem inboundFrame_region (enc : Bool) (payload : List Byte) (i : Nat) (hi : i < payload.length + 2) :
    (inboundFrame enc payload)[4 + i]? = (applyMode enc (clearRegion payload))[i]? := by
  rw [inboundFrame_eq, List.getElem?_append_right (by simp)]
  simp [List.getElem?_append_left, hi]

/-- The footer stands behind the region. -/
theorem inboundFrame_footer (enc : Bool) (payload : List Byte) (i : Nat) :
    (inboundFrame enc payload)[payload.length + 6 + i]? = [Config.device.markF0, Config.device.markF1][i]? := by
  rw [inboundFrame_eq, List.getElem?_append_right (by simp; omega), List.getElem?_append_right (by simp; omega)]
  congr 1
  simp
  omega

/-! ### A frame at the read cursor -/

/-- A candidate at the read cursor is the first. -/
theorem firstCandidate_zero {s : State} (h : candidate s 0) : firstCandidate s 0 := ⟨h, fun _ hj => absurd hj (Nat.not_lt_zero _)⟩

/-- A sender's frame that is pending first is a complete frame at the read cursor. -/
theorem framePending_inboundFrame {s : State} {enc : Bool} {payload : List Byte} (hl : payload.length ≤ Config.maxExtracted)
    (h : pendingStartsWith s (inboundFrame enc payload)) :
    framePending s 0 (BitVec.ofNat 16 payload.length) (applyMode enc (clearRegion payload)) := by
  rw [maxExtracted_eq] at hl
  obtain ⟨hlen, hbyte⟩ := h
  rw [inboundFrame_length] at hlen hbyte
  have size : (BitVec.ofNat 16 payload.length).toNat = payload.length := by rw [BitVec.toNat_ofNat]; omega
  have first : candidate s 0 := ⟨by omega, hbyte 0 (by omega), .inr (hbyte 1 (by omega))⟩
  have footer (i : Nat) (hi : i < 2) := (hbyte (payload.length + 6 + i) (by omega)).trans (inboundFrame_footer enc payload i)
  refine ⟨firstCandidate_zero first, by omega, ⟨_, _, hbyte 2 (by omega), hbyte 3 (by omega), (le16_lo8_hi8 _).symm⟩, ?_, ?_, ?_, ?_, ?_⟩
  · rw [size, ringCapacity_eq]; omega
  · omega
  · rw [footerAt, size, Nat.zero_add]
    exact ⟨footer 0 (by omega), footer 1 (by omega)⟩
  · simp [size]
  · intro i hi
    simp only [applyMode_length, clearRegion_length] at hi
    rw [Nat.zero_add, hbyte (4 + i) (by omega)]
    exact inboundFrame_region enc payload i hi

/-- A scan that stands on both start markers, with a smallest frame pending, stops there (R104 to R106). -/
theorem scanHeader_at_markers {ring : Memory} {p : Cursor} {n : Nat} (hn : 8 ≤ n)
    (h0 : ringByte ring p 0 = some Config.device.markS0) (h1 : ringByte ring p 1 = some Config.device.markS1) :
    scanHeader ring p n = .header p n := by
  obtain ⟨m, rfl⟩ : ∃ m, n = m + 1 := ⟨n - 1, by omega⟩
  have enough : ¬ m + 1 < Config.minFrame := by rw [minFrame_eq]; omega
  simp [scanHeader, h0, h1, enough]

/-- A size that fits the ring and the pending bytes, with its footer, passes the framing checks (R108 to R110). -/
theorem checkSize_of_footer {ring : Memory} {p w : Cursor} {avail : Nat} {size : U16}
    (hcap : size.toNat + 8 ≤ Config.ringCapacity) (hlen : size.toNat + 8 ≤ avail)
    (h6 : ringByte ring p (size.toNat + 6) = some Config.device.markF0)
    (h7 : ringByte ring p (size.toNat + 7) = some Config.device.markF1) : checkSize ring p w avail size = .frame p size := by
  rw [checkSize, frameLength_eq, if_neg (by omega), if_neg (by omega)]
  simp [checkFooter, h6, h7]

/-- Phase 1 of a POLL takes a complete frame at the read cursor, whatever is pending behind it (R101 to R110). -/
theorem scanFrame_of_framePending_zero {s : State} {size : U16} {raw : List Byte} (h : framePending s 0 size raw) :
    scanFrame s.ring s.rptr s.wptr = .frame s.rptr size := by
  obtain ⟨⟨⟨_, h0, hmark⟩, _⟩, h8, ⟨lo, hi, h2, h3, rfl⟩, hcap, hlen, ⟨h6, h7⟩, _⟩ := h
  rw [Nat.zero_add] at h2 h3 h6 h7
  have h1 := hmark.resolve_left (by omega)
  have pends : s.rptr ≠ s.wptr := fun he => by
    rw [pendingLength, he, pendingCount_self] at h8
    omega
  have header : scanHeader s.ring s.rptr (pendingCount s.rptr s.wptr) = .header s.rptr (pendingLength s) :=
    scanHeader_at_markers h8 h0 h1
  rw [scanFrame, if_neg pends, header]
  have size : checkFrame s.ring s.rptr s.wptr (pendingLength s) = checkSize s.ring s.rptr s.wptr (pendingLength s) (le16 lo hi) := by
    rw [pendingByte] at h2 h3
    simp only [checkFrame, h2, h3]
  exact size.trans (checkSize_of_footer hcap hlen h6 h7)

/-- A POLL takes a complete frame at the read cursor (R111 to R113). -/
theorem pollIdle_of_framePending_zero {s : State} {size : U16} {raw : List Byte} (h : framePending s 0 size raw) :
    pollIdle s = interpretFrame size raw (consumeFrame s.rptr size { s with wSnap := s.wptr }) := by
  have copied : Memory.readAll s.ring (ringSpan (s.rptr + BitVec.ofNat 8 Config.headerLength) (size.toNat + 2)) = some raw := by
    obtain ⟨_, _, _, _, _, _, hraw, hbyte⟩ := h
    refine (readAll_ringSpan _ _ _ _).2 ⟨hraw, fun i hi => ?_⟩
    rw [ringByte_add, headerLength_eq, ← hbyte i (by omega), Nat.zero_add]
    rfl
  simp only [pollIdle, scanFrame_of_framePending_zero h, copied]

/-- A POLL whose frame at the read cursor is obfuscated in the mode it leaves, with a matching CRC, latches its cleartext
(R142, R143, R161, R180). -/
theorem pollIdle_of_sentRegion {s : State} {enc : Bool} {size : U16} {region : List Byte}
    (h : framePending s 0 size (applyMode enc region)) (hmode : toggledMode (regionId (applyMode enc region)) s.enc = enc)
    (hcrc : crcMatches size.toNat region = true) :
    pollIdle s = latch (regionId region) (mux (regionId region)) size
      { consumeFrame s.rptr size { s with wSnap := s.wptr } with enc := enc, fs := storeFromZero s.fs region } := by
  have clear : clearedRegion s.enc (applyMode enc region) = region := clearedRegion_applyMode hmode
  rw [pollIdle_of_framePending_zero h, interpretFrame_ok _ _ _ (by rw [consumeFrame_enc, clear, hcrc])]
  simp only [consumeFrame_enc, consumeFrame_fs, clear, hmode]

/-- A POLL of a block that is not busy is not refused (R102). -/
theorem exec_poll_of_idle {s : State} (h : s.busy = false) : exec .poll s = .next (pollIdle s) := by
  rw [exec, execPoll, h, if_neg Bool.false_ne_true]

/-- Settles O41: the sent frame is pending at the read cursor, its region is deobfuscated to what was sent, and its CRC matches. -/
theorem sentFrameRoundTrip : Obligations.SentFrameRoundTrip := by
  intro s enc payload hbusy hl hpending hmode
  have size : (BitVec.ofNat 16 payload.length).toNat = payload.length := by rw [BitVec.toNat_ofNat]; omega
  have crc : crcMatches (BitVec.ofNat 16 payload.length).toNat (clearRegion payload) = true := by
    rw [size, crcMatches_clearRegion]
  have taken := pollIdle_of_sentRegion (framePending_inboundFrame hl hpending) hmode crc
  refine ⟨_, (exec_poll_of_idle hbusy).trans (congrArg Host.Outcome.next taken), rfl, rfl, ?_, rfl, size, rfl, ?_, rfl⟩
  · rw [latch_fs, ← clearRegion_length]
    exact readAll_storeFromZero s.fs (clearRegion payload)
  · rw [latch_rptr, consumeFrame_rptr, size]

end Sys2Proof.Machine
end

section
/-! The reply on the wire, and what it leaves in `RB` (30_encoding.md R77; 44_reply.md R210 to R213). -/

namespace Sys2Proof.Machine

/-- A REPLY of written bytes that fits `RB` is sent (R210). -/
theorem execReply_of_readAll {n : U16} {s : State} {payload : List Byte} (hn : n.toNat ≤ Config.replyCapacity)
    (hp : Memory.readAll s.rb (List.range n.toNat) = some payload) : execReply n s = .next (sendReply n payload s) := by
  rw [execReply, if_neg (by omega), hp]

/-- The reply's frame, with this hardware's marker bytes (R77, R211). -/
theorem replyFrame_eq (enc : Bool) (n : U16) (sent : List Byte) :
    replyFrame enc n sent = [0xAB, 0xCD, lo8 n, hi8 n] ++ sent ++ (replyFooter enc n.toNat ++ [0xDC, 0xBA]) := by
  have mark : bytesOf Config.device.replyMark = [0xAB, 0xCD] := by decide
  have footerMark : bytesOf Config.device.replyFooterMark = [0xDC, 0xBA] := by decide
  rw [replyFrame, mark, footerMark]
  simp [bytesOf]

/-- The footer of a plain reply is the pad (R213). -/
theorem replyFooter_plain (n : Nat) : replyFooter false n = [0xFF, 0xFF] := rfl

/-- The footer of an encrypted reply is the pad, obfuscated at the two positions behind the payload (R213). -/
theorem replyFooter_encrypted (n : Nat) : replyFooter true n = [keyByte n ^^^ 0xFF, keyByte (n + 1) ^^^ 0xFF] := by
  have padded (i : Nat) : obf i Config.device.replyPad = keyByte i ^^^ 0xFF := BitVec.xor_comm _ _
  simp only [replyFooter, if_true, padded]

/-- A plain REPLY changes `TX` alone (R212). -/
theorem sendReply_plain {n : U16} {payload : List Byte} {s : State} (h : s.enc = false) :
    sendReply n payload s = { s with tx := s.tx ++ ([0xAB, 0xCD, lo8 n, hi8 n] ++ payload ++ [0xFF, 0xFF, 0xDC, 0xBA]) } := by
  have frame := replyFrame_eq false n payload
  rw [replyFooter_plain] at frame
  simp only [sendReply, h, Bool.false_eq_true, if_false, applyMode, frame]
  rfl

/-- An encrypted REPLY also leaves the payload it sent in `RB` (R212). -/
theorem sendReply_encrypted {n : U16} {payload : List Byte} {s : State} (h : s.enc = true) :
    sendReply n payload s =
      { s with
        rb := storeFromZero s.rb (obfFrom 0 payload)
        tx := s.tx ++ ([0xAB, 0xCD, lo8 n, hi8 n] ++ obfFrom 0 payload ++
          [keyByte n.toNat ^^^ 0xFF, keyByte (n.toNat + 1) ^^^ 0xFF, 0xDC, 0xBA]) } := by
  have frame := replyFrame_eq true n (obfFrom 0 payload)
  rw [replyFooter_encrypted] at frame
  simp only [sendReply, h, if_true, applyMode, frame]
  rfl

/-- Settles O44: what is sent in each mode, and `RB` below and above the stored payload. -/
theorem replyEmitsItsFrame : Obligations.ReplyEmitsItsFrame := by
  intro n s payload hn hp
  have sent : exec (.reply n) s = .next (sendReply n payload s) := execReply_of_readAll hn hp
  have hlen : (obfFrom 0 payload).length = n.toNat := by simpa using Memory.readAll_length _ _ _ hp
  refine ⟨fun henc => by rw [sent, sendReply_plain henc], fun henc => ?_⟩
  rw [sendReply_encrypted henc] at sent
  refine ⟨_, sent, rfl, fun a ha => ?_, fun a ha => ?_⟩
  · rw [read_storeFromZero, if_pos (by omega)]
  · rw [read_storeFromZero, if_neg (by omega)]

end Sys2Proof.Machine
end

section
/-! What one POLL takes and what it leaves pending (40_scanner.md R101, R102, R112, R116 to R118; 43_dispatch.md R180): the pending frame is
the only thing a POLL can take, and the bytes past the new read cursor are those that stood there before. -/

namespace Sys2Proof.Machine

/-! ### The pending frame is the one taken -/

/-- A complete frame at the first candidate rules out every outcome without a frame (R301). -/
theorem framePending.not_phaseOne_stop {s : State} {k : Nat} {size : U16} {raw : List Byte} (hf : framePending s k size raw)
    {r : PollResult} {p : Cursor} : ¬ PhaseOne s (.stop r p) := by
  obtain ⟨hfirst, h8, hsize, hcap, hlen, hfooter, _, _⟩ := hf
  have same : ∀ j n, firstCandidate s j → sizeAt s j n → j = k ∧ n = size := by
    intro j n hj hn
    cases firstCandidate_unique s j k hj hfirst
    exact ⟨rfl, sizeAt_unique s _ n size hn hsize⟩
  intro h
  cases h with
  | noData h => rw [pendingLength, (pendingCount_eq_zero _ _).2 h] at h8; omega
  | noMarker _ hj =>
    obtain ⟨hcandidate, _⟩ := hfirst
    exact passedOver_not_candidate s k (hj k hcandidate.1) hcandidate
  | tooShort j hc hn =>
    cases firstCandidate_unique s j k hc hfirst
    omega
  | overflow j n hc _ hs ho =>
    obtain ⟨rfl, rfl⟩ := same j n hc hs
    omega
  | incomplete j n hc _ hs _ hl =>
    obtain ⟨rfl, rfl⟩ := same j n hc hs
    omega
  | badFooter j n hc _ hs _ _ hnf =>
    obtain ⟨rfl, rfl⟩ := same j n hc hs
    exact hnf hfooter

/-- At most one frame is pending. -/
theorem framePending_unique {s : State} {j k : Nat} {m n : U16} {bs cs : List Byte} (h : framePending s j m bs)
    (h' : framePending s k n cs) : j = k ∧ m = n ∧ bs = cs := by
  obtain ⟨hfirst, _, hsize, _, _, _, hlen, hbyte⟩ := h
  obtain ⟨hfirst', _, hsize', _, _, _, hlen', hbyte'⟩ := h'
  cases firstCandidate_unique s j k hfirst hfirst'
  cases sizeAt_unique s j m n hsize hsize'
  refine ⟨rfl, rfl, List.ext_getElem? fun i => ?_⟩
  by_cases hi : i < bs.length
  · rw [← hbyte i hi, hbyte' i (by omega)]
  · rw [List.getElem?_eq_none (by omega), List.getElem?_eq_none (by omega)]

/-- The state in which a POLL that takes the frame at `k` interprets it: the write cursor sampled, the frame zero-filled, the read cursor
past it (R101, R112). -/
def pastFrame (s : State) (k : Nat) (size : U16) : State :=
  { s with
    ring := zeroFill s.ring (s.rptr + BitVec.ofNat 8 k) (size.toNat + 8)
    rptr := s.rptr + BitVec.ofNat 8 (k + size.toNat + 8)
    wSnap := s.wptr }

theorem consumeFrame_eq_pastFrame (s : State) (k : Nat) (size : U16) :
    consumeFrame (s.rptr + BitVec.ofNat 8 k) size { s with wSnap := s.wptr } = pastFrame s k size := by
  simp [consumeFrame, pastFrame, Nat.add_assoc, BitVec.ofNat_add, BitVec.add_assoc]

theorem consumeFrame_eq_pastFrame_zero (s : State) (size : U16) :
    consumeFrame s.rptr size { s with wSnap := s.wptr } = pastFrame s 0 size := by
  have h := consumeFrame_eq_pastFrame s 0 size
  rwa [BitVec.add_zero] at h

/-- With every pending byte written, a POLL takes the pending frame (R111 to R113). -/
theorem pollIdle_of_framePending {s : State} {k : Nat} {size : U16} {raw : List Byte} (hw : pendingWritten s)
    (hf : framePending s k size raw) :
    pollIdle s = interpretFrame size raw (pastFrame s k size) := by
  have hcase := pollIdle_cases s
  generalize pollIdle s = t at hcase ⊢
  cases hcase with
  | stop r p h => exact absurd h hf.not_phaseOne_stop
  | unwritten j hj hb => exact absurd hb (hw j hj)
  | frame j n bs h =>
    obtain ⟨rfl, rfl, rfl⟩ := framePending_unique h hf
    rw [consumeFrame_eq_pastFrame]

/-- A frame that is interpreted is reported as such, by its CRC (R161, R180). -/
theorem interpretFrame_result_cases (size : U16) (raw : List Byte) (s : State) :
    (interpretFrame size raw s).result = .frameOk ∨ (interpretFrame size raw s).result = .crcMismatch := by
  cases h : crcMatches size.toNat (clearedRegion s.enc raw) with
  | true => exact .inl (by rw [interpretFrame_ok _ _ _ h, latch_result])
  | false => exact .inr (by rw [interpretFrame_mismatch _ _ _ h])

theorem interpretFrame_result_ne (size : U16) (raw : List Byte) (s : State) {r : PollResult} (hok : r ≠ .frameOk)
    (hmismatch : r ≠ .crcMismatch) : (interpretFrame size raw s).result ≠ r := by
  rcases interpretFrame_result_cases size raw s with h | h <;> rw [h]
  · exact hok.symm
  · exact hmismatch.symm

/-- The ring indices of a frame, from the read cursor (R53, R114). -/
theorem mem_ringSpan_add (p : Cursor) (k n a : Nat) :
    a ∈ ringSpan (p + BitVec.ofNat 8 k) n ↔ ∃ j, j < n ∧ a = ringIndex p (k + j) := by
  simp only [mem_ringSpan, ringIndex_add, eq_comm]

/-! ### What stays pending -/

/-- A cursor moved over fewer bytes than the capacity is that far from where it was. -/
theorem pendingCount_moved (p : Cursor) {k : Nat} (hk : k < 256) : pendingCount p (p + BitVec.ofNat 8 k) = k := by
  unfold pendingCount
  rw [BitVec.add_comm, BitVec.add_sub_cancel, BitVec.toNat_ofNat]
  omega

/-- Zero-filling a span leaves the bytes behind it alone, up to the capacity (R60, R112). -/
theorem ringByte_zeroFill_behind (ring : Memory) (p : Cursor) {k n j : Nat} (hj : k + n ≤ j) (hcap : j < 256) :
    ringByte (zeroFill ring (p + BitVec.ofNat 8 k) n) p j = ringByte ring p j := by
  have behind : ringIndex p j ∉ ringSpan (p + BitVec.ofNat 8 k) n := by
    rw [mem_ringSpan_add]
    rintro ⟨i, hi, hij⟩
    have := ringIndex_inj p j (k + i) hcap (by omega) hij
    omega
  rw [ringByte, read_zeroFill, if_neg behind]
  rfl

/-- After a POLL `n` bytes fewer are pending, and they are those that were pending behind the first `n` (R116, R118). -/
def leavesPending (s t : State) (n : Nat) : Prop :=
  n ≤ pendingLength s ∧ t.rptr = s.rptr + BitVec.ofNat 8 n ∧ pendingLength t = pendingLength s - n ∧
    ∀ j, j < pendingLength t → pendingByte t j = pendingByte s (n + j)

/-- A read cursor moved over `n` pending bytes leaves the rest pending, if nothing behind them was overwritten. -/
theorem leavesPending_of_rptr {s t : State} {n : Nat} (hn : n ≤ pendingLength s) (hrptr : t.rptr = s.rptr + BitVec.ofNat 8 n)
    (hwptr : t.wptr = s.wptr) (hring : ∀ j, n ≤ j → j < 256 → ringByte t.ring s.rptr j = ringByte s.ring s.rptr j) :
    leavesPending s t n := by
  have hlen : pendingLength t = pendingLength s - n := by
    rw [pendingLength, hrptr, hwptr]
    exact pendingCount_add _ _ _ hn
  have cap : pendingLength s < 256 := pendingCount_lt _ _
  refine ⟨hn, hrptr, hlen, fun j hj => ?_⟩
  rw [pendingByte, hrptr, ringByte_add]
  exact hring (n + j) (by omega) (by omega)

/-- What a frame takes from the pending bytes: those before it and its own (R112, R118). -/
theorem framePending.leavesPending_past {s : State} {k : Nat} {size : U16} {raw : List Byte} (hf : framePending s k size raw) :
    leavesPending s (interpretFrame size raw (pastFrame s k size))
      (k + size.toNat + 8) := by
  obtain ⟨⟨⟨hk, _⟩, _⟩, _, _, _, hlen, _⟩ := hf
  refine leavesPending_of_rptr (by omega) (interpretFrame_rptr ..) (interpretFrame_wptr ..) fun j hj hcap => ?_
  rw [interpretFrame_ring]
  exact ringByte_zeroFill_behind _ _ (by omega) hcap

/-- A POLL moves the read cursor towards the write cursor and leaves what is past it pending (R116, R118). -/
theorem PollCase.leavesPending_advance {s t : State} (h : PollCase s t) : leavesPending s t (pendingCount s.rptr t.rptr) := by
  have moved : ∃ n, leavesPending s t n := by
    cases h with
    | stop r p hp =>
      obtain ⟨n, hn, rfl⟩ := hp.stop_advances
      exact ⟨n, leavesPending_of_rptr hn rfl rfl fun _ _ _ => rfl⟩
    | unwritten => exact ⟨0, leavesPending_of_rptr (Nat.zero_le _) (by simp) rfl fun _ _ _ => rfl⟩
    | frame k size raw hf => exact ⟨_, consumeFrame_eq_pastFrame s k size ▸ hf.leavesPending_past⟩
  obtain ⟨n, hn⟩ := moved
  have count : pendingCount s.rptr t.rptr = n := by
    obtain ⟨hle, hrptr, _, _⟩ := hn
    rw [hrptr]
    exact pendingCount_moved _ (hle.trans_lt (pendingCount_lt _ _))
  rwa [count]

/-! ### The effect of a POLL -/

/-- Settles O30: the refusal records SEQ_POLL_WHILE_BUSY, which sets `SEQERR` alone. -/
theorem pollWhileBusyOnlySetsSeqerr : Obligations.PollWhileBusyOnlySetsSeqerr := by
  intro s hb
  simp [exec, execPoll, hb, raiseFault, Fault.setsBadop, Fault.setsSeqerr]

/-- A POLL of a block that is not busy ends in one of the cases of `PollCase` (R101 to R113). -/
theorem pollCase_of_exec_poll {s t : State} (hbusy : s.busy = false) (h : exec .poll s = .next t) : PollCase s t := by
  rw [exec_poll_of_idle hbusy] at h
  cases h
  exact pollIdle_cases s

/-- Settles O34: no case of a POLL writes `TX` or `RB`, and the case without a frame is the one that stops. -/
theorem pollWithoutAFrameWritesThreeRegisters : Obligations.PollWithoutAFrameWritesThreeRegisters := by
  intro s t h
  refine ⟨?_, ?_, fun hbusy hfaults hok hmismatch => ?_⟩
  · cases exec_cases _ s t h with
    | poll _ _ hp => exact hp.tx_eq
    | _ => rfl
  · cases exec_cases _ s t h with
    | poll _ _ hp => exact hp.rb_eq
    | _ => rfl
  · cases pollCase_of_exec_poll hbusy h with
    | stop => rfl
    | unwritten => simp at hfaults
    | frame k size raw => exact ((interpretFrame_result_cases _ _ _).elim hok hmismatch).elim

/-- R116's clauses for the outcomes without a frame. -/
theorem PhaseOne.stop_rptr {s : State} {r : PollResult} {p : Cursor} (h : PhaseOne s (.stop r p)) :
    (r = .noData → p = s.rptr) ∧
    (r = .incomplete → ∃ k, firstCandidate s k ∧ p = s.rptr + BitVec.ofNat 8 k) ∧
    (r = .noMarker ∨ r = .sizeOverflow ∨ r = .badFooter → p = s.wptr) ∧
    ¬ (r = .frameOk ∨ r = .crcMismatch) := by
  cases h with
  | tooShort k hc => exact ⟨by simp, fun _ => ⟨k, hc, rfl⟩, by simp, by simp⟩
  | incomplete k size hc => exact ⟨by simp, fun _ => ⟨k, hc, rfl⟩, by simp, by simp⟩
  | _ => simp

/-- Settles O35: outcome by outcome, with the frame's outcomes apart. -/
theorem pollCursorLaw : Obligations.PollCursorLaw := by
  intro s t hbusy h hfaults
  have hcase := pollCase_of_exec_poll hbusy h
  obtain ⟨hle, _⟩ := hcase.leavesPending_advance
  refine ⟨hcase.wptr_eq, hle, ?_⟩
  cases hcase with
  | stop r p hp =>
    obtain ⟨hdata, hinc, hw, hframe⟩ := hp.stop_rptr
    exact ⟨hdata, hinc, hw, fun hr => absurd hr hframe⟩
  | unwritten => simp at hfaults
  | frame k size raw hf =>
    obtain ⟨_, hrptr, hlen, _⟩ := hf.leavesPending_past
    rw [consumeFrame_eq_pastFrame]
    have other {r : PollResult} (hok : r ≠ .frameOk) (hmismatch : r ≠ .crcMismatch) :=
      interpretFrame_result_ne size raw (pastFrame s k size) hok hmismatch
    refine ⟨fun hr => absurd hr (other (by simp) (by simp)), fun hr => absurd hr (other (by simp) (by simp)), ?_,
      fun _ => ⟨k, size, raw, hf, hrptr, by omega⟩⟩
    rintro (hr | hr | hr) <;> exact absurd hr (other (by simp) (by simp))

/-- Settles O33: a POLL takes the pending frame, and each of its three parts (ring, `FS`, registers) is that of its own operation. -/
theorem pollTakesThePendingFrame : Obligations.PollTakesThePendingFrame := by
  intro s k size raw hbusy hw hf
  have hraw : raw.length = size.toNat + 2 := by
    obtain ⟨_, _, _, _, _, _, hraw, _⟩ := hf
    exact hraw
  refine ⟨_, (exec_poll_of_idle hbusy).trans (congrArg Host.Outcome.next (pollIdle_of_framePending hw hf)), ?_, ?_, ?_, ?_, ?_, ?_⟩
  · intro hcrc
    rw [interpretFrame_ok size raw (pastFrame s k size) hcrc]
    simp [latch, pastFrame, hbusy]
  · intro hcrc
    rw [interpretFrame_mismatch size raw (pastFrame s k size) hcrc]
    rfl
  · intro a ha
    rw [interpretFrame_ring, pastFrame, read_zeroFill, if_pos ((mem_ringSpan_add _ _ _ _).2 ha)]
  · intro a ha
    rw [interpretFrame_ring, pastFrame, read_zeroFill, if_neg (mt (mem_ringSpan_add _ _ _ _).1 ha)]
  · intro a ha
    rw [interpretFrame_fs, read_storeFromZero, if_pos (by simp; omega)]
    rfl
  · intro a ha
    rw [interpretFrame_fs, read_storeFromZero, if_neg (by simp; omega)]
    rfl

/-- Settles O42: the sender's frame is pending at the read cursor; what a frame leaves pending is what was behind it. -/
theorem framesAreTakenOneAtATime : Obligations.FramesAreTakenOneAtATime := by
  intro s enc payload rest hbusy hl ⟨hlen, hbyte⟩
  rw [List.length_append, inboundFrame_length] at hlen hbyte
  have front : pendingStartsWith s (inboundFrame enc payload) := by
    refine ⟨by rw [inboundFrame_length]; omega, fun i hi => ?_⟩
    rw [← List.getElem?_append_left (l₂ := rest) hi]
    rw [inboundFrame_length] at hi
    exact hbyte i (by omega)
  have hf := framePending_inboundFrame hl front
  have size : (BitVec.ofNat 16 payload.length).toNat = payload.length := by rw [BitVec.toNat_ofNat]; omega
  obtain ⟨_, _, hleft, hbehind⟩ := hf.leavesPending_past
  rw [size, Nat.zero_add] at hleft hbehind
  have taken := pollIdle_of_framePending_zero hf
  rw [consumeFrame_eq_pastFrame_zero] at taken
  refine ⟨_, (exec_poll_of_idle hbusy).trans (congrArg Host.Outcome.next taken), interpretFrame_result_cases _ _ _, hleft, ?_, ?_⟩
  · omega
  · intro i hi
    rw [hbehind i (by omega), hbyte _ (by omega), List.getElem?_append_right (by simp)]
    simp

/-! ### A POLL in its decoded rows -/

/-- The command row an id decodes to latches the id with its select (R180, R181, R190). -/
theorem exec_decodeCommand (id size : U16) (s : State) :
    exec (decodeCommand id size) s = .next (latch id (mux id) size s) := by
  by_cases hid : id ∈ commandIds
  · simp only [commandIds, List.mem_cons, List.not_mem_nil, or_false] at hid
    rcases hid with rfl | rfl | rfl | rfl | rfl | rfl | rfl | rfl <;> rfl
  · rw [decodeCommand_of_not_mem hid]
    simp only [commandIds, List.mem_cons, List.not_mem_nil, or_false, not_or] at hid
    have unselected : mux id = 0 := by simp [mux, hid]
    rw [unselected]
    rfl

/-- The toggle row a raw id decodes to sets the mode the raw id leaves (R84, R142). -/
theorem exec_of_decodeRawId {raw : U16} {i : Instr} (h : decodeRawId raw = some i) (s : State) :
    exec i s = .next { s with enc := toggledMode raw s.enc } := by
  unfold decodeRawId at h
  unfold toggledMode
  split at h
  · rename_i hp
    cases h
    rw [if_pos hp]
    rfl
  · rename_i hp
    split at h
    · rename_i hr
      cases h
      rw [if_neg hp, if_pos hr]
      rfl
    · cases h

/-- A raw id without a toggle row leaves the mode (R84). -/
theorem toggledMode_of_decodeRawId_none {raw : U16} (h : decodeRawId raw = none) (enc : Bool) : toggledMode raw enc = enc := by
  unfold decodeRawId at h
  unfold toggledMode
  split at h
  · cases h
  · rename_i hp
    split at h
    · cases h
    · rename_i hr
      rw [if_neg hp, if_neg hr]

/-- Settles O40: the toggle row by its decoder, the command row by the latch that ends a POLL with a matching CRC. -/
theorem pollRunsItsDecodedRows : Obligations.PollRunsItsDecodedRows := by
  intro s k size raw hbusy hw hf hcrc
  refine ⟨fun i hi => exec_of_decodeRawId hi s, fun hnone => toggledMode_of_decodeRawId_none hnone s.enc, ?_⟩
  rw [exec_poll_of_idle hbusy, pollIdle_of_framePending hw hf,
    interpretFrame_ok size raw (pastFrame s k size) hcrc, exec_decodeCommand]
  rfl

end Sys2Proof.Machine
end

section
/-! Ring positions play no part in what a POLL extracts (40_scanner.md R111, R114): with the ring turned by `d` places, the scan finds the
same, `d` places on, and the copy reads the same bytes. -/

namespace Sys2Proof.Machine

/-! ### What a scan finds, turned -/

/-- The result of a header scan with its position moved `d` places on. -/
def HeaderScan.turn (d : Cursor) : HeaderScan → HeaderScan
  | .exhausted => .exhausted
  | .tooShort p => .tooShort (p + d)
  | .header p avail => .header (p + d) avail
  | .unwritten => .unwritten

/-- What phase 1 of a POLL finds with its position moved `d` places on. -/
def ScanOutcome.turn (d : Cursor) : ScanOutcome → ScanOutcome
  | .stop r p => .stop r (p + d)
  | .frame p size => .frame (p + d) size
  | .unwritten => .unwritten

/-- The `n` bytes from `p` in one ring are those from `q` in another. -/
def sameSpan (ring₁ : Memory) (p : Cursor) (ring₂ : Memory) (q : Cursor) (n : Nat) : Prop :=
  ∀ k, k < n → ringByte ring₂ q k = ringByte ring₁ p k

theorem cursor_add_right_comm (p d e : Cursor) : p + d + e = p + e + d := by bv_omega

theorem pendingCount_turn (p w d : Cursor) : pendingCount (p + d) (w + d) = pendingCount p w := by
  unfold pendingCount
  congr 1
  bv_omega

section
variable {ring₁ ring₂ : Memory} {p d : Cursor} {n : Nat}

/-- Part of a span that agrees agrees. -/
theorem sameSpan.part (h : sameSpan ring₁ p ring₂ (p + d) n) {k m : Nat} (hk : k + m ≤ n) :
    sameSpan ring₁ (p + BitVec.ofNat 8 k) ring₂ (p + BitVec.ofNat 8 k + d) m := by
  intro j hj
  rw [cursor_add_right_comm, ringByte_add, ringByte_add]
  exact h (k + j) (by omega)

theorem scanHeader_turn (h : sameSpan ring₁ p ring₂ (p + d) n) :
    scanHeader ring₂ (p + d) n = (scanHeader ring₁ p n).turn d := by
  induction n generalizing p with
  | zero => rfl
  | succ n ih =>
    have next : scanHeader ring₂ (p + d + 1) n = (scanHeader ring₁ (p + 1) n).turn d := by
      rw [cursor_add_right_comm]
      exact ih (h.part (k := 1) (by omega))
    simp only [scanHeader, h 0 (by omega), next]
    cases ringByte ring₁ p 0 with
    | none => rfl
    | some b =>
      dsimp only
      by_cases hb : b ≠ Config.device.markS0
      · simp only [if_pos hb]
      · by_cases hn : n + 1 < Config.minFrame
        · simp only [if_neg hb, if_pos hn, HeaderScan.turn]
        · have second : ringByte ring₂ (p + d) 1 = ringByte ring₁ p 1 := h 1 (by rw [minFrame_eq] at hn; omega)
          simp only [if_neg hb, if_neg hn, second]
          cases ringByte ring₁ p 1 with
          | none => rfl
          | some c => dsimp only; split <;> rfl

theorem checkFooter_turn {w : Cursor} {size : U16} (h : sameSpan ring₁ p ring₂ (p + d) n) (hn : size.toNat + 8 ≤ n) :
    checkFooter ring₂ (p + d) (w + d) size = (checkFooter ring₁ p w size).turn d := by
  simp only [checkFooter, footerOffset_eq, h (size.toNat + 6) (by omega), h (size.toNat + 6 + 1) (by omega)]
  cases ringByte ring₁ p (size.toNat + 6) with
  | none => rfl
  | some f0 =>
    cases ringByte ring₁ p (size.toNat + 6 + 1) with
    | none => rfl
    | some f1 => dsimp only; split <;> rfl

theorem checkSize_turn {w : Cursor} {size : U16} (h : sameSpan ring₁ p ring₂ (p + d) n) :
    checkSize ring₂ (p + d) (w + d) n size = (checkSize ring₁ p w n size).turn d := by
  unfold checkSize
  by_cases ho : frameLength size > Config.ringCapacity
  · simp only [if_pos ho, ScanOutcome.turn]
  · by_cases hl : n < frameLength size
    · simp only [if_neg ho, if_pos hl, ScanOutcome.turn]
    · simp only [if_neg ho, if_neg hl]
      exact checkFooter_turn h (Nat.le_of_not_lt hl)

theorem checkFrame_turn {w : Cursor} (h : sameSpan ring₁ p ring₂ (p + d) n) (hn : 8 ≤ n) :
    checkFrame ring₂ (p + d) (w + d) n = (checkFrame ring₁ p w n).turn d := by
  simp only [checkFrame, h 2 (by omega), h 3 (by omega)]
  cases ringByte ring₁ p 2 with
  | none => rfl
  | some lo =>
    cases ringByte ring₁ p 3 with
    | none => rfl
    | some hi => exact checkSize_turn h

/-- Phase 1 of a POLL over the same pending bytes elsewhere finds the same there (R114). -/
theorem scanFrame_turn {w : Cursor} (h : sameSpan ring₁ p ring₂ (p + d) (pendingCount p w)) :
    scanFrame ring₂ (p + d) (w + d) = (scanFrame ring₁ p w).turn d := by
  unfold scanFrame
  by_cases hp : p = w
  · subst hp
    simp only [if_true, ScanOutcome.turn]
  · have hpd : p + d ≠ w + d := fun he => hp (by simpa using he)
    have finds := scanHeader_finds ring₁ p (pendingCount p w)
    rw [if_neg hp, if_neg hpd, pendingCount_turn, scanHeader_turn h]
    cases hs : scanHeader ring₁ p (pendingCount p w) with
    | header q avail =>
      rw [hs] at finds
      obtain ⟨k, hk, rfl, rfl, h8, _⟩ := finds
      exact checkFrame_turn (h.part (by omega)) h8
    | _ => rfl

/-- The copy reads the same bytes (R111). -/
theorem readAll_turn (h : sameSpan ring₁ p ring₂ (p + d) n) :
    Memory.readAll ring₂ (ringSpan (p + d) n) = Memory.readAll ring₁ (ringSpan p n) := by
  refine Option.ext fun bs => ?_
  rw [readAll_ringSpan, readAll_ringSpan]
  exact and_congr_right fun _ => forall₂_congr fun i hi => by rw [h i hi]

end

/-! ### What a POLL answers, by what its scan finds -/

theorem pollIdle_of_stop {s : State} {r : PollResult} {p : Cursor} (h : scanFrame s.ring s.rptr s.wptr = .stop r p) :
    pollIdle s = { s with wSnap := s.wptr, rptr := p, result := r } := by
  simp only [pollIdle, h]

theorem pollIdle_of_frame {s : State} {p : Cursor} {size : U16} {raw : List Byte}
    (h : scanFrame s.ring s.rptr s.wptr = .frame p size)
    (hraw : Memory.readAll s.ring (ringSpan (p + BitVec.ofNat 8 Config.headerLength) (size.toNat + 2)) = some raw) :
    pollIdle s = interpretFrame size raw (consumeFrame p size { s with wSnap := s.wptr }) := by
  simp only [pollIdle, h, hraw]

/-- With every pending byte written, a POLL records no fault (R300). -/
theorem pollIdle_faults_of_pendingWritten {s : State} (hw : pendingWritten s) : (pollIdle s).faults = s.faults := by
  rcases (pollIdle_cases s).faults_cases with h | ⟨_, k, hk, hb⟩
  · exact h
  · exact absurd hb (hw k hk)

/-- With every pending byte written, the scan reads no unwritten byte. -/
theorem scanFrame_ne_unwritten {s : State} (hw : pendingWritten s) : scanFrame s.ring s.rptr s.wptr ≠ .unwritten := by
  intro h
  have faults := pollIdle_faults_of_pendingWritten hw
  simp [pollIdle, h] at faults

/-- With every pending byte written, the copy of a frame succeeds, from within the pending bytes (R111). -/
theorem copy_of_scanFrame {s : State} (hw : pendingWritten s) {p : Cursor} {size : U16}
    (h : scanFrame s.ring s.rptr s.wptr = .frame p size) :
    ∃ k raw, k + (size.toNat + 2) ≤ pendingLength s ∧ p + BitVec.ofNat 8 Config.headerLength = s.rptr + BitVec.ofNat 8 k ∧
      Memory.readAll s.ring (ringSpan (s.rptr + BitVec.ofNat 8 k) (size.toNat + 2)) = some raw := by
  have found := scanFrame_phaseOne s
  rw [h] at found
  cases found with
  | frame k _ hc hn _ _ hl _ =>
    have start : s.rptr + BitVec.ofNat 8 k + BitVec.ofNat 8 Config.headerLength = s.rptr + BitVec.ofNat 8 (k + 4) := by
      rw [BitVec.ofNat_add k, BitVec.add_assoc]
      rfl
    cases hr : Memory.readAll s.ring (ringSpan (s.rptr + BitVec.ofNat 8 (k + 4)) (size.toNat + 2)) with
    | some raw => exact ⟨k + 4, raw, by omega, start, hr⟩
    | none =>
      have faults := pollIdle_faults_of_pendingWritten hw
      simp [pollIdle, h, start, hr] at faults

/-! ### Equal latches -/

/-- The elements that interpreting a frame reads and writes, `RESULT` apart, are equal (R21, R27, R29, R30). -/
def sameLatches (s t : State) : Prop :=
  s.fs = t.fs ∧ s.enc = t.enc ∧ s.cmdId = t.cmdId ∧ s.fsize = t.fsize ∧ s.sel = t.sel ∧ s.busy = t.busy

/-- What a frame is interpreted as depends on its bytes and the latches (R113). -/
theorem interpretFrame_sameLatches {s t : State} (size : U16) (raw : List Byte) (h : sameLatches s t) :
    (interpretFrame size raw s).result = (interpretFrame size raw t).result ∧
      sameLatches (interpretFrame size raw s) (interpretFrame size raw t) := by
  obtain ⟨hfs, henc, hid, hsize, hsel, hbusy⟩ := h
  cases hcrc : crcMatches size.toNat (clearedRegion s.enc raw) with
  | true =>
    have hcrc' : crcMatches size.toNat (clearedRegion t.enc raw) = true := henc ▸ hcrc
    rw [interpretFrame_ok _ _ _ hcrc, interpretFrame_ok _ _ _ hcrc', henc, hfs]
    exact ⟨rfl, rfl, rfl, rfl, rfl, rfl, by rw [latch_busy, latch_busy, hbusy]⟩
  | false =>
    have hcrc' : crcMatches size.toNat (clearedRegion t.enc raw) = false := henc ▸ hcrc
    rw [interpretFrame_mismatch _ _ _ hcrc, interpretFrame_mismatch _ _ _ hcrc', henc, hfs]
    exact ⟨rfl, rfl, rfl, hid, hsize, hsel, hbusy⟩

/-! ### The same pending bytes elsewhere -/

/-- The same pending bytes elsewhere stand at the same distance behind both cursors (R114). -/
theorem samePending.turned {s t : State} (h : samePending s t) :
    ∃ d, t.rptr = s.rptr + d ∧ t.wptr = s.wptr + d ∧ sameSpan s.ring s.rptr t.ring (s.rptr + d) (pendingLength s) := by
  obtain ⟨hlen, hbyte⟩ := h
  have rptr : t.rptr = s.rptr + (t.rptr - s.rptr) := by bv_omega
  refine ⟨t.rptr - s.rptr, rptr, ?_, fun k hk => ?_⟩
  · have span : s.wptr - s.rptr = t.wptr - t.rptr := BitVec.eq_of_toNat_eq hlen
    bv_omega
  · rw [← rptr]
    exact (hbyte k hk).symm

/-- A POLL of the same pending bytes with the same latches ends with the same result and latches, its read cursor turned as the pending
bytes are (R113, R114). -/
theorem pollIdle_turn {s t : State} {d : Cursor} (hw : pendingWritten s) (hl : sameLatches s t) (hr : t.rptr = s.rptr + d)
    (hwptr : t.wptr = s.wptr + d) (hspan : sameSpan s.ring s.rptr t.ring (s.rptr + d) (pendingLength s)) :
    (pollIdle s).result = (pollIdle t).result ∧ sameLatches (pollIdle s) (pollIdle t) ∧
      (pollIdle t).rptr = (pollIdle s).rptr + d := by
  have scan : scanFrame t.ring t.rptr t.wptr = (scanFrame s.ring s.rptr s.wptr).turn d := by
    rw [hr, hwptr]
    exact scanFrame_turn hspan
  cases hs : scanFrame s.ring s.rptr s.wptr with
  | unwritten => exact absurd hs (scanFrame_ne_unwritten hw)
  | stop r p =>
    rw [hs] at scan
    rw [pollIdle_of_stop hs, pollIdle_of_stop scan]
    exact ⟨rfl, hl, rfl⟩
  | frame p size =>
    rw [hs] at scan
    obtain ⟨k, raw, hk, start, hraw⟩ := copy_of_scanFrame hw hs
    have hraw' := (readAll_turn (hspan.part hk)).trans hraw
    rw [← start] at hraw hraw'
    rw [cursor_add_right_comm] at hraw'
    rw [pollIdle_of_frame hs hraw, pollIdle_of_frame scan hraw']
    obtain ⟨hresult, hlatches⟩ := interpretFrame_sameLatches size raw
      (s := consumeFrame p size { s with wSnap := s.wptr }) (t := consumeFrame (p + d) size { t with wSnap := t.wptr }) hl
    refine ⟨hresult, hlatches, ?_⟩
    simp only [interpretFrame_rptr, consumeFrame_rptr]
    exact cursor_add_right_comm _ _ _

/-- What an equal advance over the same pending bytes leaves pending is the same (R114). -/
theorem leavesPending.samePending {s s' t t' : State} {n : Nat} (h : samePending s t) (hs : leavesPending s s' n)
    (ht : leavesPending t t' n) : samePending s' t' := by
  obtain ⟨hlen, hbyte⟩ := h
  obtain ⟨_, _, hs', hrest⟩ := hs
  obtain ⟨_, _, ht', hrest'⟩ := ht
  have left : pendingLength s' = pendingLength t' := by omega
  refine ⟨left, fun j hj => ?_⟩
  rw [hrest j hj, hrest' j (by omega)]
  exact hbyte (n + j) (by omega)

/-- Settles O37: the second state's pending bytes are the first's, turned, and so is all that a POLL finds. -/
theorem wraparoundEquivalence : Obligations.WraparoundEquivalence := by
  intro s₁ s₂ hb₁ hb₂ henc hfs hid hsize hsel hw hpending
  obtain ⟨d, hrptr, hwptr, hspan⟩ := hpending.turned
  obtain ⟨hresult, ⟨hfs', henc', hid', hsize', hsel', hbusy'⟩, hmoved⟩ :=
    pollIdle_turn hw ⟨hfs, henc, hid, hsize, hsel, hb₁.trans hb₂.symm⟩ hrptr hwptr hspan
  have advance : pendingCount s₁.rptr (pollIdle s₁).rptr = pendingCount s₂.rptr (pollIdle s₂).rptr := by
    rw [hmoved, hrptr, pendingCount_turn]
  have left₁ := (pollIdle_cases s₁).leavesPending_advance
  have left₂ := (pollIdle_cases s₂).leavesPending_advance
  rw [← advance] at left₂
  exact ⟨_, _, exec_poll_of_idle hb₁, exec_poll_of_idle hb₂, hresult, hfs', henc', hid', hsize', hsel', hbusy', advance,
    left₁.samePending hpending left₂⟩

end Sys2Proof.Machine
end

section
/-! The cipher and the mode toggle (41_cipher.md R140 to R146): the key table as a list, what each raw id does to the mode, and what
deobfuscation does to the id of a region. -/

namespace Sys2Proof.Machine

/-! ### The key table -/

/-- The key byte of a stream position, read off the table as a list (R141, R144). -/
theorem keyByte_eq_getD (i : Nat) : keyByte i = Config.device.key.toList.getD (i % 16) 0 := by
  have inTable : i % 16 < Config.device.key.toList.length := Nat.mod_lt i (by decide)
  rw [List.getD_eq_getElem _ _ inTable, Vector.getElem_toList]
  rfl

/-- Settles O25: the table read off, then the shape of `obfFrom` and XOR as its own inverse. -/
theorem obfuscationIsAnInvolution : Obligations.ObfuscationIsAnInvolution :=
  ⟨fun i b => congrArg (b ^^^ ·) (keyByte_eq_getD i), getElem?_obfFrom, obf_obf, obfFrom_obfFrom⟩

/-! ### The mode toggle -/

/-- `ID_PLAIN` sets the mode to plain (R142). -/
@[simp] theorem toggledMode_idPlain (enc : Bool) : toggledMode Config.idPlain enc = false := if_pos rfl

/-- `ID_RESYNC` sets the mode to encrypted, since it is not `ID_PLAIN` (R142). -/
@[simp] theorem toggledMode_idResync (enc : Bool) : toggledMode Config.device.idResync enc = true :=
  (if_neg idPlain_ne_idResync.symm).trans (if_pos rfl)

/-- Any other raw id leaves the mode (R84, R142). -/
theorem toggledMode_of_ne {raw : U16} (hp : raw ≠ Config.idPlain) (hr : raw ≠ Config.device.idResync) (enc : Bool) :
    toggledMode raw enc = enc :=
  (if_neg hp).trans (if_neg hr)

/-- Settles O24: each toggle row sets the mode, and the two ids are the parameters' values. -/
theorem togglesSetTheMode : Obligations.TogglesSetTheMode := by
  refine ⟨fun s => ⟨exec_of_decodeRawId (raw := Config.idPlain) rfl s, exec_of_decodeRawId (raw := Config.device.idResync) rfl s⟩,
    fun raw enc => ⟨?plain, ?resync, fun hp hr => toggledMode_of_ne hp hr enc⟩⟩
  case plain =>
    rintro rfl
    exact toggledMode_idPlain enc
  case resync =>
    rintro rfl
    exact toggledMode_idResync enc

/-! ### The id of a deobfuscated region -/

/-- The key bytes that a region's id meets, at stream positions 0 and 1, as one u16. -/
def idKey : U16 := le16 (keyByte 0) (keyByte 1)

/-- R146's equality: the resync id is the version-query id, obfuscated (general-knowledge values, log entries 9, 11 and 12). -/
theorem idPlain_xor_idKey : Config.idPlain ^^^ idKey = Config.device.idResync := by decide

/-- The version-query id is the resync id, deobfuscated (R145, R146). -/
theorem idResync_xor_idKey : Config.device.idResync ^^^ idKey = Config.idPlain := by
  rw [← idPlain_xor_idKey, BitVec.xor_assoc, BitVec.xor_self, BitVec.xor_zero]

/-- Transforming a region XORs its id with the key bytes of the first two positions (R140, R144). -/
theorem regionId_obfFrom {raw : List Byte} (h : 2 ≤ raw.length) : regionId (obfFrom 0 raw) = regionId raw ^^^ idKey := by
  match raw, h with
  | _ :: _ :: _, _ => exact BitVec.xor_append.symm

/-- The id that the multiplexer is given for a raw region (R142, R143, R180). -/
theorem regionId_clearedRegion {raw : List Byte} (h : 2 ≤ raw.length) (enc : Bool) :
    regionId (clearedRegion enc raw) = if toggledMode (regionId raw) enc then regionId raw ^^^ idKey else regionId raw := by
  rw [clearedRegion, applyMode, apply_ite regionId, regionId_obfFrom h]

/-- No deobfuscated id is the resync id (R146, R190): deobfuscation yields it from `ID_PLAIN` alone, which turns deobfuscation off, and
without deobfuscation it would be the raw id, which turns it on. -/
theorem regionId_clearedRegion_ne_idResync {raw : List Byte} (h : 2 ≤ raw.length) (enc : Bool) :
    regionId (clearedRegion enc raw) ≠ Config.device.idResync := by
  rw [regionId_clearedRegion h]
  intro resync
  cases mode : toggledMode (regionId raw) enc with
  | true =>
    rw [mode, if_pos rfl, ← idPlain_xor_idKey, BitVec.xor_left_inj] at resync
    rw [resync, toggledMode_idPlain] at mode
    contradiction
  | false =>
    rw [mode, if_neg Bool.false_ne_true] at resync
    rw [resync, toggledMode_idResync] at mode
    contradiction

/-- Settles O26: both raw forms of a version query set the mode that deobfuscates them to the version-query id. -/
theorem versionQueryResynchronisesEitherWay : Obligations.VersionQueryResynchronisesEitherWay := by
  intro enc raw h
  refine ⟨fun resync => ?obfuscated, fun plain => ?clear, regionId_clearedRegion_ne_idResync h enc⟩
  case obfuscated =>
    have mode : toggledMode (regionId raw) enc = true := by rw [resync, toggledMode_idResync]
    exact ⟨mode, by rw [regionId_clearedRegion h, if_pos mode, resync, idResync_xor_idKey]⟩
  case clear =>
    have mode : toggledMode (regionId raw) enc = false := by rw [plain, toggledMode_idPlain]
    exact ⟨mode, by rw [regionId_clearedRegion h, if_neg (by simp [mode]), plain]⟩

end Sys2Proof.Machine
end

section
/-! The CRC (42_integrity.md R160 to R164): it is linear over XOR, a shift of its register loses nothing, and so a changed payload byte changes
it. -/

namespace Sys2Proof.Machine

/-! ### Linearity -/

/-- One shift as a sum over GF(2): the register without its top bit, and the polynomial for the bit shifted out (R160). -/
theorem crcShift_eq_xor (c : U16) : crcShift c = (c <<< 1) ^^^ (if c.msb then Config.device.crc.poly else 0) := by
  cases h : c.msb <;> simp [crcShift, h]

theorem crcShift_xor (c d : U16) : crcShift (c ^^^ d) = crcShift c ^^^ crcShift d := by
  have feedback (p : U16) (a b : Bool) : (if a ^^ b then p else 0) = (if a then p else 0) ^^^ (if b then p else 0) := by
    cases a <;> cases b <;> simp
  simp only [crcShift_eq_xor, BitVec.shiftLeft_xor_distrib, BitVec.msb_xor, feedback]
  ac_rfl

theorem crcShifts_xor (n : Nat) (c d : U16) : crcShifts n (c ^^^ d) = crcShifts n c ^^^ crcShifts n d := by
  induction n generalizing c d with
  | zero => rfl
  | succ n ih => simp only [crcShifts, crcShift_xor, ih]

/-- The register and the byte enter the eight shifts as a sum, so a step is linear in the pair of them. -/
theorem crcByte_xor (c d : U16) (a b : Byte) : crcByte (c ^^^ d) (a ^^^ b) = crcByte c a ^^^ crcByte d b := by
  simp only [crcByte, crcShifts_xor, BitVec.truncate_eq_setWidth, BitVec.setWidth_xor, BitVec.shiftLeft_xor_distrib]
  ac_rfl

theorem crcFold_xor {a e : List Byte} (h : a.length = e.length) (c d : U16) :
    crcFold (c ^^^ d) (List.zipWith (· ^^^ ·) a e) = crcFold c a ^^^ crcFold d e := by
  induction a generalizing e c d with
  | nil =>
    obtain rfl := List.length_eq_zero_iff.mp h.symm
    rfl
  | cons x xs ih =>
    obtain ⟨y, ys, rfl⟩ := List.exists_cons_of_length_eq_add_one h.symm
    simp only [List.zipWith_cons_cons, crcFold, crcByte_xor, ih (Nat.succ.inj h)]

/-- A device whose CRC starts at 0 and adds nothing at the end: the CRC is the fold from 0 (R160). -/
theorem crc16_eq_crcFold (bs : List Byte) : crc16 bs = crcFold 0 bs := BitVec.xor_zero

/-- Settles O28: the fold from 0 is linear, and 0 is the sum of 0 and 0. -/
theorem crcIsLinear : Obligations.CrcIsLinear := by
  intro a e h
  simpa [crc16_eq_crcFold] using crcFold_xor h 0 0

/-! ### No step loses information -/

/-- The polynomial is odd, so a bit shifted out comes back in at the bottom: only 0 is shifted to 0. -/
theorem eq_zero_of_crcShift_eq_zero {c : U16} (h : crcShift c = 0) : c = 0 := by
  have odd : Config.device.crc.poly[0] = true := by decide
  cases top : c.msb with
  | true =>
    have bottom := congrArg (BitVec.getLsbD · 0) h
    simp [crcShift, top, odd] at bottom
  | false =>
    have shifted : c <<< 1 = 0#16 := by simpa [crcShift, top] using h
    rw [BitVec.msb_eq_false_iff_two_mul_lt] at top
    bv_omega

theorem crcShift_injective : Function.Injective crcShift := by
  intro c d h
  rw [← BitVec.xor_eq_zero_iff] at h ⊢
  exact eq_zero_of_crcShift_eq_zero ((crcShift_xor c d).trans h)

theorem crcShifts_injective (n : Nat) : Function.Injective (crcShifts n) := by
  induction n with
  | zero => exact Function.injective_id
  | succ n ih => exact ih.comp crcShift_injective

theorem crcByte_register_injective (b : Byte) : Function.Injective (crcByte · b) := fun _ _ h =>
  (BitVec.xor_left_inj _).mp (crcShifts_injective 8 h)

theorem crcByte_injective (c : U16) : Function.Injective (crcByte c) := by
  intro a b h
  have upper := (BitVec.xor_right_inj _).mp (crcShifts_injective 8 h)
  bv_omega

theorem crcFold_register_injective (bs : List Byte) : Function.Injective (crcFold · bs) := by
  induction bs with
  | nil => exact Function.injective_id
  | cons b bs ih => exact ih.comp (crcByte_register_injective b)

theorem crcFold_append (c : U16) (as bs : List Byte) : crcFold c (as ++ bs) = crcFold (crcFold c as) bs := by
  induction as generalizing c with
  | nil => rfl
  | cons a as ih => exact ih (crcByte c a)

/-- Sequences that differ in one byte have different CRCs: the byte sets their registers apart, and no later byte joins them again. -/
theorem crc16_append_cons_inj {as bs : List Byte} {a b : Byte} : crc16 (as ++ a :: bs) = crc16 (as ++ b :: bs) ↔ a = b := by
  refine ⟨fun h => ?_, fun h => by rw [h]⟩
  simp only [crc16_eq_crcFold, crcFold_append, crcFold] at h
  exact crcByte_injective _ (crcFold_register_injective bs h)

theorem crc16_set_ne {bs : List Byte} {k : Nat} {b : Byte} (hk : k < bs.length) (hb : b ≠ bs[k]) : crc16 (bs.set k b) ≠ crc16 bs := by
  intro h
  have split : bs = bs.take k ++ bs[k] :: bs.drop (k + 1) := by simp
  rw [List.set_eq_take_append_cons_drop, if_pos hk] at h
  exact hb (crc16_append_cons_inj.mp (h.trans (congrArg crc16 split)))

/-! ### The check -/

theorem xor_bit_ne {j : Nat} (hj : j < 8) (b : Byte) : b ^^^ (1#8 <<< j) ≠ b := by
  intro h
  have bit := congrArg (BitVec.getLsbD · j) h
  simp [hj] at bit

/-- A payload byte is none of the two received CRC bytes (R73). -/
theorem receivedCrc_set {size k : Nat} (h : k < size) (region : List Byte) (b : Byte) :
    receivedCrc size (region.set k b) = receivedCrc size region := by
  simp [receivedCrc, List.getD_eq_getElem?_getD, List.getElem?_set_ne, h.ne, (Nat.lt_succ_of_lt h).ne]

/-- Settles O29: the received CRC stays, and the CRC of the changed payload is another one. -/
theorem crcCatchesEverySingleBitError : Obligations.CrcCatchesEverySingleBitError := by
  intro size region k j hlength hk hj hmatch
  have hregion : k < region.length := by omega
  have hpayload : k < (region.take size).length := by simp; omega
  have flipped : region.getD k 0 ^^^ (1#8 <<< j) ≠ (region.take size)[k] := by
    simpa [hregion] using xor_bit_ne hj region[k]
  rw [crcMatches, beq_iff_eq] at hmatch
  rw [crcMatches, receivedCrc_set hk, ← hmatch, List.take_set, beq_eq_false_iff_ne]
  exact crc16_set_ne hpayload flipped

/-! ### The check values -/

/-- Settles O27, each value by running the sixteen-bit register. -/
theorem crcCheckValues : Obligations.CrcCheckValues := by
  unfold Obligations.CrcCheckValues
  decide +kernel

end Sys2Proof.Machine
end

section
/-! The multiplexer and its latch (43_dispatch.md R180 to R193): the table over all ids, what a command row latches, and what an agent's
instruction does to what a handler sees. -/

namespace Sys2Proof.Machine

/-! ### The table -/

/-- Row `k` of the table has the select `k`, counted from 1 (R181). -/
theorem mux_getElem_commandIds {k : Nat} (hk : k < commandIds.length) : mux commandIds[k] = BitVec.ofNat 4 (k + 1) := by
  decide +revert

/-- An id in no row has no select (R181, R190). -/
theorem mux_of_not_mem {id : U16} (h : id ∉ commandIds) : mux id = 0 := by
  simp only [commandIds, List.mem_cons, List.not_mem_nil, or_false, not_or] at h
  simp [mux, h]

/-- The selects of the rows are all different, and none is 0: they fit the select's four bits. -/
theorem select_inj {j k : Nat} (hj : j ≤ 8) (hk : k ≤ 8) : BitVec.ofNat 4 j = BitVec.ofNat 4 k ↔ j = k := by
  bv_omega

theorem mux_eq_zero_iff (id : U16) : mux id = 0 ↔ id ∉ commandIds := by
  refine ⟨fun unselected hid => ?_, mux_of_not_mem⟩
  obtain ⟨k, hk, rfl⟩ := List.mem_iff_getElem.1 hid
  rw [mux_getElem_commandIds] at unselected
  exact absurd ((select_inj hk (Nat.zero_le 8)).1 unselected) (Nat.succ_ne_zero k)

theorem mux_eq_select_iff (id : U16) {k : Nat} (hk : k < commandIds.length) :
    mux id = BitVec.ofNat 4 (k + 1) ↔ commandIds[k]? = some id := by
  rw [List.getElem?_eq_getElem hk, Option.some_inj]
  constructor
  · intro selected
    have hid : id ∈ commandIds := by
      by_contra hn
      rw [mux_of_not_mem hn] at selected
      exact absurd ((select_inj (Nat.zero_le 8) hk).1 selected) (Nat.succ_ne_zero k).symm
    obtain ⟨j, hj, rfl⟩ := List.mem_iff_getElem.1 hid
    rw [mux_getElem_commandIds, select_inj hj hk] at selected
    cases selected
    rfl
  · rintro rfl
    exact mux_getElem_commandIds hk

/-- Settles O23: the ids by evaluation, the selects by the row an id stands in. -/
theorem muxIsTheTable : Obligations.MuxIsTheTable :=
  ⟨rfl, by decide, fun id =>
    ⟨fun k => mux_eq_select_iff id k.isLt, mux_eq_zero_iff id, Nat.le_of_lt_succ (mux_lt_selects id)⟩⟩

/-! ### The command rows -/

/-- The latch of a row with a handler sets `BUSY` (R180). -/
theorem latch_of_ne_zero (id : U16) {sel : BitVec 4} (h : sel ≠ 0) (size : U16) (s : State) :
    latch id sel size s = { s with cmdId := id, fsize := size, sel := sel, busy := true, result := .frameOk } := by
  have selected : (sel != 0) = true := bne_iff_ne.2 h
  rw [latch, selected, Bool.or_true]

/-- The latch of an id without a handler leaves `BUSY` (R180, R190). -/
theorem latch_zero (id size : U16) (s : State) :
    latch id 0 size s = { s with cmdId := id, fsize := size, sel := 0, result := .frameOk } := by
  simp [latch]

/-- Settles O21: each row is the latch of its id and its select, and no row's select is 0. -/
theorem commandRowsLatchTheirSelect : Obligations.CommandRowsLatchTheirSelect := by
  intro size s
  have row (id : U16) {sel : BitVec 4} (h : sel ≠ 0) :=
    congrArg (Host.Outcome.next (φ := Fault) (ρ := Refusal)) (latch_of_ne_zero id h size s)
  exact ⟨row _ (by decide), row _ (by decide), row _ (by decide), row _ (by decide), row _ (by decide), row _ (by decide),
    row _ (by decide), row _ (by decide)⟩

/-- Settles O22: the decoder's last row, and the latch of a select of 0. -/
theorem unimplementedIdsAreLatchedWithoutBusy : Obligations.UnimplementedIdsAreLatchedWithoutBusy := fun id size s hid =>
  ⟨decodeCommand_of_not_mem hid size, congrArg Host.Outcome.next (latch_zero id size s)⟩

/-! ### COMPLETE -/

/-- Settles O8: the two cases of `BUSY`; the error records SEQ_COMPLETE_WHILE_IDLE, which sets `SEQERR` alone. -/
theorem completeClearsBusyOrIsASequencingError : Obligations.CompleteClearsBusyOrIsASequencingError := by
  refine fun s => ⟨fun busy => ?outstanding, fun idle => ?error⟩
  case outstanding => exact if_pos busy
  case error => simp [exec, execComplete, idle, raiseFault, Fault.setsBadop, Fault.setsSeqerr]

/-! ### What a handler sees -/

/-- The latches stay, `BUSY` does not rise, and while it stays set `FS` stays too (R29, R30, R193). -/
def keepsView (s t : State) : Prop :=
  t.cmdId = s.cmdId ∧ t.fsize = s.fsize ∧ t.sel = s.sel ∧ (t.busy = true → s.busy = true ∧ t.fs = s.fs)

/-- A state that differs in none of these elements. -/
theorem keepsView_of_eq {s t : State} (hid : t.cmdId = s.cmdId) (hsize : t.fsize = s.fsize) (hsel : t.sel = s.sel)
    (hbusy : t.busy = s.busy) (hfs : t.fs = s.fs) : keepsView s t :=
  ⟨hid, hsize, hsel, fun h => ⟨hbusy ▸ h, hfs⟩⟩

/-- A frame whose deobfuscated region is `region` stands in `FS` and is dispatched by its id (R111, R161, R180). -/
structure Dispatches (s t : State) (size : U16) (region : List Byte) : Prop where
  size_le : size.toNat ≤ Config.maxExtracted
  length_eq : region.length = size.toNat + 2
  crc : crcMatches size.toNat region = true
  fs_eq : t.fs = storeFromZero s.fs region
  result_eq : t.result = .frameOk
  cmdId_eq : t.cmdId = regionId region
  fsize_eq : t.fsize = size
  sel_eq : t.sel = mux (regionId region)
  busy_eq : t.busy = (mux (regionId region) != 0)

/-- A pending frame is short enough to be extracted: a ring is never full (R75, R233). -/
theorem framePending.size_le {s : State} {k : Nat} {size : U16} {raw : List Byte} (h : framePending s k size raw) :
    size.toNat ≤ Config.maxExtracted := by
  obtain ⟨_, _, _, _, hlen, _⟩ := h
  have cap : pendingLength s < 256 := pendingCount_lt _ _
  rw [maxExtracted_eq]
  omega

/-- A POLL that is not refused dispatches a frame, or leaves the handler's view; a CRC mismatch writes `FS`, but no command is outstanding
then (R162, R192). -/
theorem PollCase.view_cases {s t : State} (hidle : s.busy = false) (h : PollCase s t) :
    keepsView s t ∨ ∃ size region, Dispatches s t size region := by
  cases h with
  | stop => exact .inl (keepsView_of_eq rfl rfl rfl rfl rfl)
  | unwritten => exact .inl (keepsView_of_eq rfl rfl rfl rfl rfl)
  | frame k size raw hf =>
    rw [consumeFrame_eq_pastFrame]
    have hraw : raw.length = size.toNat + 2 := by
      obtain ⟨_, _, _, _, _, _, hraw, _⟩ := hf
      exact hraw
    cases hcrc : crcMatches size.toNat (clearedRegion s.enc raw) with
    | true =>
      rw [interpretFrame_ok size raw (pastFrame s k size) hcrc]
      exact .inr ⟨size, clearedRegion s.enc raw,
        { size_le := hf.size_le, length_eq := by rw [clearedRegion_length, hraw], crc := hcrc, fs_eq := rfl, result_eq := rfl,
          cmdId_eq := rfl, fsize_eq := rfl, sel_eq := rfl, busy_eq := by simp [pastFrame, hidle] }⟩
    | false =>
      rw [interpretFrame_mismatch size raw (pastFrame s k size) hcrc]
      exact .inl ⟨rfl, rfl, rfl, fun hbusy => absurd (hidle.symm.trans hbusy) Bool.false_ne_true⟩

/-- What an agent's instruction does to what a handler sees, said once (R29, R192, R193). -/
inductive ViewCase (s : State) : Instr → State → Prop where
  | kept (i : Instr) (t : State) (h : keepsView s t) : ViewCase s i t
  /-- RESET (R340). -/
  | cleared (t : State) (hid : t.cmdId = 0) (hsize : t.fsize = 0) (hsel : t.sel = 0) (hbusy : t.busy = false) :
      ViewCase s .reset t
  /-- A POLL with outcome `FRAME_OK` (R192). -/
  | dispatched (t : State) (size : U16) (region : List Byte) (h : Dispatches s t size region) : ViewCase s .poll t

theorem exec_viewCase {i : Instr} {s t : State} (ha : (encode i).fromAgent = true) (h : exec i s = .next t) : ViewCase s i t := by
  cases exec_cases i s t h with
  | poll _ hidle hp =>
    rcases hp.view_cases hidle with hkept | ⟨size, region, hd⟩
    · exact .kept _ _ hkept
    · exact .dispatched _ size region hd
  | complete => exact .kept _ _ ⟨rfl, rfl, rfl, fun hbusy => absurd hbusy Bool.false_ne_true⟩
  | reset => exact .cleared _ rfl rfl rfl rfl
  | latch _ _ _ _ hn => simp [ha] at hn
  | _ => exact .kept _ _ (keepsView_of_eq rfl rfl rfl rfl rfl)

/-- Settles O43: what keeps the handler's view changes no select and raises no `BUSY`. -/
theorem noDispatchWithoutAValidFrame : Obligations.NoDispatchWithoutAValidFrame := by
  intro i s t ha h hchange
  cases exec_viewCase ha h with
  | kept _ _ hkept =>
    obtain ⟨_, _, hsel, hbusy⟩ := hkept
    rcases hchange with hne | ⟨hidle, hrisen⟩
    · exact absurd hsel hne
    · obtain ⟨hwas, _⟩ := hbusy hrisen
      exact absurd (hidle.symm.trans hwas) Bool.false_ne_true
  | cleared => exact .inl rfl
  | dispatched _ size region hd => exact .inr ⟨rfl, hd.result_eq⟩

/-! ### The invariant of the handler's view -/

theorem keepsView.latchCoherent {s t : State} (h : keepsView s t) (hs : latchCoherent s) : latchCoherent t := by
  obtain ⟨hid, hsize, hsel, hbusy⟩ := h
  obtain ⟨hmux, hselected, hle⟩ := hs
  refine ⟨by rw [hsel, hid, hmux], fun hb => ?_, by rwa [hsize]⟩
  obtain ⟨hwas, _⟩ := hbusy hb
  rw [hsel]
  exact hselected hwas

theorem keepsView.frameHeld {s t : State} (h : keepsView s t) (hs : frameHeld s) : frameHeld t := by
  obtain ⟨hid, hsize, _, hbusy⟩ := h
  intro hb
  obtain ⟨hwas, hfs⟩ := hbusy hb
  rw [hid, hsize, hfs]
  exact hs hwas

theorem Dispatches.latchCoherent {s t : State} {size : U16} {region : List Byte} (h : Dispatches s t size region) :
    latchCoherent t := by
  refine ⟨by rw [h.sel_eq, h.cmdId_eq], fun hb => ?_, by rw [h.fsize_eq]; exact h.size_le⟩
  rw [h.busy_eq] at hb
  rw [h.sel_eq]
  exact bne_iff_ne.1 hb

theorem Dispatches.frameHeld {s t : State} {size : U16} {region : List Byte} (h : Dispatches s t size region) :
    frameHeld t := by
  intro _
  rw [h.fsize_eq, h.cmdId_eq, h.fs_eq, ← h.length_eq]
  exact ⟨region, readAll_storeFromZero s.fs region, rfl, h.crc⟩

/-- An agent's instruction keeps the latches coherent and an outstanding command's frame in `FS` (R29, R193). -/
theorem exec_keeps_handlerView {i : Instr} {s t : State} (ha : (encode i).fromAgent = true) (hl : latchCoherent s)
    (hf : frameHeld s) (h : exec i s = .next t) : latchCoherent t ∧ frameHeld t := by
  cases exec_viewCase ha h with
  | kept _ _ hkept => exact ⟨hkept.latchCoherent hl, hkept.frameHeld hf⟩
  | cleared _ hid hsize hsel hbusy =>
    refine ⟨⟨?_, by simp [hbusy], by simp [hsize]⟩, by simp [frameHeld, hbusy]⟩
    rw [hsel, hid, (mux_eq_zero_iff 0).2 (by decide)]
  | dispatched _ size region hd => exact ⟨hd.latchCoherent, hd.frameHeld⟩

/-! ### The script -/

theorem PollCase.script_eq {s t : State} (h : PollCase s t) : t.script = s.script := by cases h <;> simp

/-- No instruction writes the steps to come (log entry 3). -/
theorem exec_script {i : Instr} {s t : State} (h : exec i s = .next t) : t.script = s.script := by
  cases exec_cases i s t h with
  | poll _ _ hp => exact hp.script_eq
  | _ => rfl

/-- Only agents' steps are to come exactly when the next one is an agent's and so are those behind it. -/
theorem agentScript_cons {s : State} {r : Request} {rest : List Request} (h : s.script = r :: rest) :
    agentScript s ↔ r.fromAgent = true ∧ agentScript (s.withScript rest) := by
  simp [agentScript, h]

/-- The bits of a request that the block does not read play no part in who issues it. -/
theorem fromAgent_canonical (r : Request) : r.canonical.fromAgent = r.fromAgent := by cases r <;> rfl

/-- An agent's request decodes to an instruction that an agent issues. -/
theorem fromAgent_encode_of_decode {r : Request} {i : Instr} (h : decode r = .ok i) :
    (encode i).fromAgent = r.fromAgent := by
  obtain ⟨_, hencode⟩ := encodeOfDecodeIsTheRequest r i h
  rw [hencode, fromAgent_canonical]

/-- Settles O54, by the cases of a step: the script loses its first request, and an agent's instruction keeps the handler's view. -/
theorem handlerViewIsStable : Obligations.HandlerViewIsStable := by
  intro s t ha hl hf h
  rcases step_cases s t h with ⟨_, rfl⟩ | ⟨r, rest, i, hs, hd, hx⟩ | ⟨r, rest, hs, _, rfl⟩
  · exact ⟨ha, hl, hf⟩
  · obtain ⟨hr, hrest⟩ := (agentScript_cons hs).1 ha
    have script : agentScript t := by rwa [agentScript, exec_script hx]
    exact ⟨script, exec_keeps_handlerView (s := s.withScript rest) ((fromAgent_encode_of_decode hd).trans hr) hl hf hx⟩
  · obtain ⟨_, hrest⟩ := (agentScript_cons hs).1 ha
    exact ⟨hrest, hl, hf⟩

end Sys2Proof.Machine
end

section
/-! REPLY's two refusals, and a REPLY of what an encrypted REPLY left in `RB` (44_reply.md R210, R212; 60_exceptions.md R302;
70_reset_and_hazards.md R348). -/

namespace Sys2Proof.Machine

/-! ### Refusals -/

/-- A REPLY longer than `RB` is refused (R210). -/
theorem execReply_of_long {n : U16} (s : State) (hn : Config.replyCapacity < n.toNat) :
    execReply n s = .next (raiseFault .replyTooLong s) := if_pos hn

/-- A REPLY of a byte that was never written is refused (R210, R302). -/
theorem execReply_of_unwritten {n : U16} {s : State} (hn : n.toNat ≤ Config.replyCapacity)
    (hr : Memory.readAll s.rb (List.range n.toNat) = none) : execReply n s = .next (raiseFault .unwrittenRead s) := by
  rw [execReply, if_neg (by omega), hr]

/-- The length refusal sets `BADOP` alone of the sticky bits (R300). -/
theorem raiseFault_replyTooLong (s : State) :
    raiseFault .replyTooLong s = { s with badop := true, faults := s.faults ++ [.replyTooLong] } := by
  simp [raiseFault, Fault.setsBadop, Fault.setsSeqerr]

/-- The unwritten read sets no sticky bit (R300). -/
theorem raiseFault_unwrittenRead (s : State) :
    raiseFault .unwrittenRead s = { s with faults := s.faults ++ [.unwrittenRead] } := by
  simp [raiseFault, Fault.setsBadop, Fault.setsSeqerr]

/-- Settles O45: REPLY checks its length and then its bytes, and each refusal only raises its fault. -/
theorem replyRefusalsEmitNothing : Obligations.ReplyRefusalsEmitNothing := by
  intro n s
  refine ⟨fun hlong => ?_, fun hn ⟨i, hi, hread⟩ => ?_⟩
  · rw [exec, execReply_of_long s hlong, raiseFault_replyTooLong]
  · have hr : Memory.readAll s.rb (List.range n.toNat) = none :=
      (Memory.readAll_eq_none _ _).2 ⟨i, List.mem_range.2 hi, hread⟩
    rw [exec, execReply_of_unwritten hn hr, raiseFault_unwrittenRead]

/-! ### The second encrypted REPLY -/

/-- An encrypted REPLY leaves the obfuscated payload where it read the payload (R212). -/
theorem readAll_rb_sendReply_encrypted {n : U16} {payload : List Byte} {s : State} (henc : s.enc = true)
    (hp : Memory.readAll s.rb (List.range n.toNat) = some payload) :
    Memory.readAll (sendReply n payload s).rb (List.range n.toNat) = some (obfFrom 0 payload) := by
  have hlen : (obfFrom 0 payload).length = n.toNat := by simpa using Memory.readAll_length _ _ _ hp
  rw [sendReply_encrypted henc, ← hlen]
  exact readAll_storeFromZero s.rb (obfFrom 0 payload)

/-- Settles O46: the first REPLY leaves `obfFrom 0 payload` in `RB`, and the second sends and stores its transform, which is the payload
(R145, R348). -/
theorem secondReplySendsTheCleartext : Obligations.SecondReplySendsTheCleartext := by
  intro n s t payload henc hn hp ht
  have first : exec (.reply n) s = .next (sendReply n payload s) := execReply_of_readAll hn hp
  cases first.symm.trans ht
  have obfuscated := readAll_rb_sendReply_encrypted henc hp
  have restored := readAll_rb_sendReply_encrypted (s := sendReply n payload s) henc obfuscated
  rw [obfFrom_obfFrom] at restored
  refine ⟨_, execReply_of_readAll hn obfuscated, restored, ?_⟩
  rw [sendReply_encrypted (s := sendReply n payload s) henc, obfFrom_obfFrom]

end Sys2Proof.Machine
end

section
/-! What the interface operations do (45_interface_ops.md R230, R232 to R235, R237): PUSH as the append of a queue, the registers' values
at their weights, and what a window access and an ill-formed access change. -/

namespace Sys2Proof.Machine

/-! ### What a fault leaves, by the sticky bit it sets -/

theorem raiseFault_of_setsNothing {f : Fault} (hb : f.setsBadop = false) (hq : f.setsSeqerr = false) (s : State) :
    raiseFault f s = { s with faults := s.faults ++ [f] } := by
  simp [raiseFault, hb, hq]

theorem raiseFault_of_setsBadop {f : Fault} (hb : f.setsBadop = true) (hq : f.setsSeqerr = false) (s : State) :
    raiseFault f s = { s with badop := true, faults := s.faults ++ [f] } := by
  simp [raiseFault, hb, hq]

/-! ### PUSH -/

/-- The state after a PUSH without an overrun (R232). -/
def pushed (b : Byte) (s : State) : State :=
  { s with ring := Memory.write s.ring s.wptr.toNat b, wptr := s.wptr + 1 }

/-- With room in the ring, PUSH stores and advances (R232). -/
theorem execPush_of_room (b : Byte) {s : State} (h : pendingLength s ≠ 255) : execPush b s = .next (pushed b s) := if_neg h

/-- In a full ring, PUSH is an overrun (R233). -/
theorem execPush_of_full (b : Byte) {s : State} (h : pendingLength s = 255) :
    execPush b s = .next (raiseFault .overrun s) := if_pos h

theorem pendingLength_pushed (b : Byte) {s : State} (h : pendingLength s ≠ 255) :
    pendingLength (pushed b s) = pendingLength s + 1 := pendingCount_push s.rptr s.wptr h

/-- The byte pushed stands behind the bytes pending before: `WPTR` is the place just past them. -/
theorem pendingByte_pushed_last (b : Byte) (s : State) : pendingByte (pushed b s) (pendingLength s) = some b := by
  change Memory.read (Memory.write s.ring s.wptr.toNat b) (ringIndex s.rptr (pendingLength s)) = some b
  rw [ringIndex_pendingLength, Memory.read_write_same]

/-- A pending place is not `WPTR`: both are places below `C` from the read cursor on, and different ones. -/
theorem ringIndex_ne_wptr {s : State} {k : Nat} (hk : k < pendingLength s) : ringIndex s.rptr k ≠ s.wptr.toNat := by
  have cap : pendingLength s < 256 := pendingCount_lt _ _
  rw [← ringIndex_pendingLength]
  exact fun h => hk.ne (ringIndex_inj s.rptr k _ (hk.trans cap) cap h)

theorem pendingByte_pushed_of_lt (b : Byte) {s : State} {k : Nat} (hk : k < pendingLength s) :
    pendingByte (pushed b s) k = pendingByte s k :=
  Memory.read_write_other s.ring _ _ b (ringIndex_ne_wptr hk)

/-- Settles O12: the new byte goes to the place just past the pending ones, which is none of theirs. -/
theorem pushAppendsToThePendingBytes : Obligations.PushAppendsToThePendingBytes := fun b s room =>
  ⟨pushed b s, execPush_of_room b room, pendingLength_pushed b room, pendingByte_pushed_last b s,
    fun _ => pendingByte_pushed_of_lt b⟩

/-- Settles O10, by what the one store leaves in the ring. -/
theorem pushStoresOneByteAndAdvances : Obligations.PushStoresOneByteAndAdvances := fun b s room =>
  ⟨pushed b s, execPush_of_room b room, rfl, Memory.read_write_same _ _ _,
    fun a ha => Memory.read_write_other _ _ a _ ha⟩

/-- Settles O11: an overrun sets no sticky bit. -/
theorem overrunWritesNothing : Obligations.OverrunWritesNothing := fun b s full =>
  (execPush_of_full b full).trans (congrArg Host.Outcome.next (raiseFault_of_setsNothing rfl rfl s))

/-! ### NOP -/

/-- Settles O7, by the row of the all-zero word in the table of the command words. -/
theorem nopLeavesEverything : Obligations.NopLeavesEverything := by
  obtain ⟨nop_iff, _⟩ := commandWordsDecodeByTheTable 0x00000000#32
  exact ⟨congrArg Except.ok (nop_iff.2 rfl), fun _ => rfl⟩

/-! ### The registers -/

theorem statusWord_toNat (s : State) : (statusWord s).toNat =
    64 * s.seqerr.toNat + 32 * s.badop.toNat + 16 * s.busy.toNat + 8 * s.enc.toNat + s.result.code.toNat := by
  simp only [statusWord, toNat_append_add, BitVec.toNat_ofBool, BitVec.toNat_ofNat]
  omega

/-- `PENDING` without truncation: the distance of the cursors mod `C` (R36, R40). -/
theorem pending_toNat (s : State) : (pending s).toNat = (s.wptr.toNat + 256 - s.rptr.toNat) % 256 := by
  have := s.rptr.isLt
  rw [pending, BitVec.toNat_sub]
  omega

theorem cursorWord_toNat (s : State) : (cursorWord s).toNat =
    2 ^ 24 * ((s.wptr.toNat + 256 - s.rptr.toNat) % 256) + 2 ^ 16 * s.wptr.toNat + 2 ^ 8 * s.wSnap.toNat + s.rptr.toNat := by
  simp only [cursorWord, toNat_append_add, pending_toNat]
  omega

theorem frameWord_toNat (s : State) : (frameWord s).toNat = 2 ^ 16 * s.fsize.toNat + s.cmdId.toNat := by
  rw [frameWord, toNat_append_add, Nat.mul_comm]

theorem dispatchWord_toNat (s : State) : (dispatchWord s).toNat = s.sel.toNat := by
  rw [dispatchWord, toNat_append_add, BitVec.toNat_ofNat, Nat.zero_mod, Nat.zero_mul, Nat.zero_add]

/-- An instruction that returns a word changes nothing but the value the host is given (R51, R54). -/
theorem returns_of_exec {i : Instr} {s : State} {v : Word} {n : Nat} (h : exec i s = .next (returnWord v s)) (hv : v.toNat = n) :
    ∃ t, exec i s = .next t ∧ t = { s with rdata := t.rdata } ∧ t.rdata.toNat = n :=
  ⟨returnWord v s, h, rfl, hv⟩

/-- Settles O16: the codes by their table, each register by the value of its word. -/
theorem registerReadsReturnTheirFields : Obligations.RegisterReadsReturnTheirFields :=
  ⟨⟨rfl, rfl, rfl, rfl, rfl, rfl, rfl, rfl⟩, fun s =>
    ⟨rfl, returns_of_exec rfl (statusWord_toNat s), returns_of_exec rfl (cursorWord_toNat s),
      returns_of_exec rfl (frameWord_toNat s), returns_of_exec rfl (dispatchWord_toNat s)⟩⟩

/-! ### The windows -/

section
variable {m : Memory} {j : BitVec 8}

theorem windowRead_of_written {b : Byte} (h : Memory.read m j.toNat = some b) (s : State) :
    windowRead m j s = returnWord (b.zeroExtend 32) s := by
  rw [windowRead, h]

/-- The read of an unwritten byte records its fault; the value it returns is the next free one (log entry 7). -/
theorem windowRead_of_unwritten (h : Memory.read m j.toNat = none) (s : State) :
    windowRead m j s = { s with
      faults := s.faults ++ [.unwrittenRead]
      rdata := (Config.unwrittenByte s.draws).zeroExtend 32
      draws := s.draws + 1 } := by
  rw [windowRead, h, raiseFault_unwrittenRead]

end

/-- Settles O17: either window is read by the same operation. -/
theorem windowReadsReturnTheByte : Obligations.WindowReadsReturnTheByte := fun _ _ s =>
  ⟨fun h => congrArg Host.Outcome.next (windowRead_of_written h s),
    fun h => congrArg Host.Outcome.next (windowRead_of_written h s)⟩

/-- Settles O18: either window is read by the same operation. -/
theorem unwrittenWindowReadsOnlyRecordTheFault : Obligations.UnwrittenWindowReadsOnlyRecordTheFault := fun _ s =>
  ⟨fun h => ⟨_, congrArg Host.Outcome.next (windowRead_of_unwritten h s), rfl⟩,
    fun h => ⟨_, congrArg Host.Outcome.next (windowRead_of_unwritten h s), rfl⟩⟩

/-- Settles O19, by what the one store leaves in `RB`. -/
theorem windowWriteSetsOneByte : Obligations.WindowWriteSetsOneByte := fun _ _ _ =>
  ⟨_, rfl, rfl, Memory.read_write_same _ _ _, fun a ha => Memory.read_write_other _ _ a _ ha⟩

/-! ### The ill-formed accesses -/

theorem execIllformedAccess_of_read {a : Access} (h : a.dir = .read) (s : State) :
    execIllformedAccess a s = .next (returnWord 0 (raiseFault .badopAccess s)) := by
  rw [execIllformedAccess, h]

theorem execIllformedAccess_of_write {a : Access} (h : a.dir = .write) (s : State) :
    execIllformedAccess a s = .next (raiseFault .badopAccess s) := by
  rw [execIllformedAccess, h]

/-- Settles O20: both directions record BADOP_ACCESS, which sets `BADOP` alone. -/
theorem illFormedAccessesOnlySetBadop : Obligations.IllFormedAccessesOnlySetBadop := by
  intro a s
  have recorded := raiseFault_of_setsBadop (f := .badopAccess) rfl rfl s
  refine ⟨fun read => ?_, fun write => ?_⟩
  · rw [exec, execIllformedAccess_of_read read, recorded, returnWord]
  · rw [exec, execIllformedAccess_of_write write, recorded]

end Sys2Proof.Machine
end

section
/-! The handler environment (46_handler_env.md R260 to R278, 45_interface_ops.md R239), outside the block: the authentication state machine,
the EEPROM's clamp and lock, what a handler's run can be, and the turn of the host's loop that serves it. -/

namespace Sys2Proof.Machine

/-! ### The authentication state machine -/

section
variable {e : Env} {r : Config.Block}

/-- At the third failure the machine stops: no response, right or wrong, has an effect (R267). -/
theorem authenticate_of_spent (spent : e.attempts = 3) : authenticate r e = e := if_pos spent

/-- A refused response that is not the third is counted (R266). -/
theorem authenticate_of_refused (left : e.attempts < 2) (refused : responseAccepted e r = false) :
    authenticate r e = { e with attempts := e.attempts + 1 } := by
  have unspent : e.attempts ≠ Config.maxAttempts := by rw [Config.maxAttempts]; omega
  have unspentAfter : ¬ e.attempts + 1 ≥ Config.maxAttempts := by rw [Config.maxAttempts]; omega
  simp [authenticate, unspent, refused, if_neg unspentAfter]

/-- The third refused response locks (R266). -/
theorem authenticate_of_third_refused (third : e.attempts = 2) (refused : responseAccepted e r = false) :
    authenticate r e = { e with locked := true, attempts := 3 } := by
  simp [authenticate, third, refused, Config.maxAttempts]

/-- The session counter is not part of the authentication state. -/
theorem authenticate_session : (authenticate r e).session = e.session := by
  unfold authenticate
  split_ifs <;> rfl

end

/-- Settles O57: two counted failures and the locking one; what accepts a response (R264, R265) is not changed by any of them. -/
theorem thirdFailureLocksForTheSession : Obligations.ThirdFailureLocksForTheSession := by
  intro e r₁ r₂ r₃ r₄ start refused₁ refused₂ refused₃
  have first : authenticate r₁ e = { e with attempts := 1 } := by
    rw [authenticate_of_refused (by omega) refused₁, start]
  have second : authenticate r₂ { e with attempts := 1 } = { e with attempts := 2 } :=
    authenticate_of_refused Nat.one_lt_two refused₂
  have third : authenticate r₃ { e with attempts := 2 } = { e with locked := true, attempts := 3 } :=
    authenticate_of_third_refused rfl refused₃
  rw [first, second, third]
  exact ⟨rfl, rfl, authenticate_of_spent rfl⟩

/-! ### The EEPROM -/

/-- From the end of the EEPROM on nothing is read (R271). -/
theorem clampRead_of_outside {offset : Nat} (h : 0x2000 ≤ offset) (size : Nat) : clampRead offset size = 0 := if_pos h

/-- Inside the EEPROM the clamp is the least of the size, 128, and the bytes up to the end (R271). -/
theorem clampRead_of_inside {offset : Nat} (h : offset < 0x2000) (size : Nat) :
    clampRead offset size = min size (min 128 (0x2000 - offset)) := if_neg (Nat.not_le.2 h)

/-- Settles O59, by the two cases of the offset. -/
theorem readClampStaysInside : Obligations.ReadClampStaysInside := by
  refine ⟨fun offset size => ?_, rfl⟩
  rcases Nat.lt_or_ge offset 0x2000 with inside | outside
  · rw [clampRead_of_inside inside]
    omega
  · rw [clampRead_of_outside outside]
    omega

section
variable {offset size : Nat} {data : Nat → Byte} {allow : Bool} {e : Env}

/-- The lock refuses the whole of an eeprom-write (R269). -/
theorem writeEeprom_of_locked (h : e.locked = true) : writeEeprom offset size data allow e = e := if_pos h

theorem writeEepromChunk_session (k : Nat) : (writeEepromChunk offset data allow e k).session = e.session := by
  simp only [writeEepromChunk]
  split_ifs <;> rfl

/-- An eeprom-write does not touch the session counter: no chunk does. -/
theorem writeEeprom_session : (writeEeprom offset size data allow e).session = e.session := by
  unfold writeEeprom
  split_ifs
  · rfl
  · exact List.foldlRecOn (motive := fun e' : Env => e'.session = e.session) _ _ rfl
      fun _ unchanged k _ => (writeEepromChunk_session k).trans unchanged

end

/-- Every reply holds its REPLY (R79, R85). -/
theorem reply_mem_replySteps (id : U16) (body : List Byte) : ∃ n, encode (.reply n) ∈ replySteps id body :=
  ⟨_, List.mem_append_right _ (List.mem_singleton_self _)⟩

/-- Settles O58: the write is refused as a whole, and the reply does not depend on it. -/
theorem lockedWriteStillReplies : Obligations.LockedWriteStillReplies := by
  intro frame e locked
  have unchanged : (handleEepromWrite frame e).1 = e := writeEeprom_of_locked locked
  obtain ⟨n, hn⟩ := reply_mem_replySteps Config.replyIds.eepromWrite (Config.writeBody (Config.writeRequest frame).1)
  exact ⟨unchanged, fun a => by rw [unchanged], n, List.mem_append_left _ hn⟩

/-! ### What a handler's run can be -/

/-- A host step that builds or sends a reply (R260). -/
def isReplyStep (r : Request) : Prop := (∃ i v, r = encode (.wrb i v)) ∨ ∃ n, r = encode (.reply n)

/-- A host step that the handler of a select may issue: reboot RESET, every other one what replies and COMPLETE (R260, R276). -/
def isHandlerStep (sel : BitVec 4) (r : Request) : Prop :=
  (sel = 8 ∧ r = encode .reset) ∨
    (sel ≠ 8 ∧ ((∃ i v, r = encode (.wrb i v)) ∨ (∃ n, r = encode (.reply n)) ∨ r = encode .complete))

/-- What a select's handler answers, said once: the host steps it issues, and the session counter still at its reload value (R278). -/
inductive HandlerCase : BitVec 4 → Env × List Request → Prop where
  /-- A row with a handler that ends in COMPLETE (R260). -/
  | completes (sel : BitVec 4) (e : Env) (steps : List Request) (hlow : 1 ≤ sel.toNat) (hhigh : sel.toNat ≤ 7)
      (hsession : e.session = Config.sessionTicks) (hsteps : ∀ r ∈ steps, isReplyStep r) :
      HandlerCase sel (e, steps ++ [encode .complete])
  /-- The reboot row (R276). -/
  | reboots (e : Env) (hsession : e.session = Config.sessionTicks) : HandlerCase 8 (e, [encode .reset])
  /-- A select of no row. -/
  | idle (sel : BitVec 4) (e : Env) (hsel : sel = 0 ∨ 8 < sel.toNat) (hsession : e.session = Config.sessionTicks) :
      HandlerCase sel (e, [])

/-- A handler with one reply. -/
theorem HandlerCase.replies {sel : BitVec 4} {e : Env} (hlow : 1 ≤ sel.toNat) (hhigh : sel.toNat ≤ 7)
    (hsession : e.session = Config.sessionTicks) (id : U16) (body : List Byte) :
    HandlerCase sel (e, replySteps id body ++ completeStep) :=
  .completes sel e _ hlow hhigh hsession (mem_replySteps id body)

section
variable (frame : List Byte) {e : Env} (armed : e.session = Config.sessionTicks)
include armed

/-- eeprom-read replies unless its clamped length is 0 (R271). -/
theorem handleEepromRead_case : HandlerCase 2 (handleEepromRead frame e) := by
  simp only [handleEepromRead]
  split_ifs
  · exact .completes 2 e [] (by decide) (by decide) armed (by simp)
  · exact .replies (by decide) (by decide) armed _ _

/-- reconfigure re-issues the challenge locked or not, and replies unless it is both locked and set not to (R275). -/
theorem handleReconfigure_case : HandlerCase 7 (handleReconfigure frame e) := by
  refine .completes 7 _ _ (by decide) (by decide) ?session ?steps
  case session =>
    change (if e.locked then e else { e with radio := Config.radioDefaults }).session = Config.sessionTicks
    split_ifs <;> exact armed
  case steps =>
    intro r hr
    split at hr
    · cases hr
    · exact mem_replySteps _ _ r hr

/-- The handler of each select, from a session counter at its reload value; version-query reloads it again (R262). -/
theorem runHandler_case (sel : BitVec 4) : HandlerCase sel (runHandler sel frame e) := by
  unfold runHandler
  split_ifs with h₁ h₂ h₃ h₄ h₅ h₆ h₇ h₈
  · subst h₁; exact .replies (by decide) (by decide) (by rfl) _ _
  · subst h₂; exact handleEepromRead_case frame armed
  · subst h₃; exact .replies (by decide) (by decide) (writeEeprom_session.trans armed) _ _
  · subst h₄; exact .replies (by decide) (by decide) (by exact armed) _ _
  · subst h₅; exact .replies (by decide) (by decide) (by exact armed) _ _
  · subst h₆; exact .replies (by decide) (by decide) (authenticate_session.trans armed) _ _
  · subst h₇; exact handleReconfigure_case frame armed
  · subst h₈; exact .reboots _ armed
  · exact .idle sel e (by bv_omega) armed

end

section
variable {sel : BitVec 4} {out : Env × List Request} (h : HandlerCase sel out)
include h

theorem HandlerCase.session_eq : out.1.session = Config.sessionTicks := by
  cases h with
  | completes _ _ _ _ _ hsession => exact hsession
  | reboots _ hsession => exact hsession
  | idle _ _ _ hsession => exact hsession

theorem HandlerCase.mem_steps {r : Request} (hr : r ∈ out.2) : isHandlerStep sel r := by
  cases h with
  | completes _ _ steps _ hhigh _ hsteps =>
    refine .inr ⟨by rintro rfl; exact absurd hhigh (by decide), ?_⟩
    rcases List.mem_append.1 hr with hstep | hlast
    · exact (hsteps r hstep).imp_right .inl
    · exact .inr (.inr (List.mem_singleton.1 hlast))
  | reboots => exact .inl ⟨rfl, List.mem_singleton.1 hr⟩
  | idle => cases hr

/-- The handlers of the selects 1 to 7 build and send their reply, and then end in one COMPLETE (R260). -/
theorem HandlerCase.steps_of_row (hlow : 1 ≤ sel.toNat) (hhigh : sel.toNat ≤ 7) :
    ∃ steps, out.2 = steps ++ [encode .complete] ∧ ∀ r ∈ steps, isReplyStep r := by
  cases h with
  | completes _ _ steps _ _ _ hsteps => exact ⟨steps, rfl, hsteps⟩
  | reboots => exact absurd hhigh (by decide)
  | idle _ _ hsel => exact absurd hsel (by bv_omega)

/-- Reboot issues RESET alone (R276). -/
theorem HandlerCase.steps_of_reboot (hreboot : sel = 8) : out.2 = [encode .reset] := by
  cases h with
  | completes _ _ _ _ hhigh => subst hreboot; exact absurd hhigh (by decide)
  | reboots => rfl
  | idle _ _ hsel => subst hreboot; exact absurd hsel (by decide)

end

/-! ### When a handler runs -/

section
variable {s : State}

theorem not_commandDue (h : s.result ≠ .frameOk ∨ s.busy = false) : commandDue s = false := by
  rw [Bool.eq_false_iff, Ne, commandDue_iff]
  rintro ⟨hresult, hbusy⟩
  exact h.elim (absurd hresult) fun hidle => absurd (hidle.symm.trans hbusy) Bool.false_ne_true

/-- A select of 0 runs nothing (R277). -/
theorem handle_of_unselected (e : Env) (h : s.sel = 0) : handle s e = (e, []) := by
  simp [handle, h]

/-- With a command due and a select, the handler runs on the reloaded session counter (R278). -/
theorem handle_case (e : Env) (due : commandDue s = true) (hsel : s.sel ≠ 0) :
    HandlerCase s.sel (handle s e) := by
  rw [handle_due s e due hsel]
  exact runHandler_case _ (e := armSession e) rfl _

theorem serve_of_not_due (e : Env) (h : commandDue s = false) : serve s e = (e, s) := by
  simp [serve, h]

theorem serve_of_due (e : Env) (h : commandDue s = true) :
    serve s e = ((handle s e).1, { s with script := dispatchReads s ++ (handle s e).2 ++ s.script }) := if_pos h

/-- The steps of a host's handler are those of its select's, and there are none where no handler runs. -/
theorem mem_handle_steps {e : Env} {r : Request} (hr : r ∈ (handle s e).2) : isHandlerStep s.sel r := by
  by_cases hsel : s.sel = 0
  · rw [handle_of_unselected e hsel] at hr
    cases hr
  · cases due : commandDue s with
    | true => exact (handle_case e due hsel).mem_steps hr
    | false => rw [handle_not_due s e due] at hr; cases hr

end

/-! ### A turn of the host's loop -/

/-- A POLL of an idle block that leaves `BUSY` set has dispatched a frame (R180), and so has read no unwritten byte. -/
theorem PollCase.dispatched_of_busy {s t : State} (h : PollCase s t) (hidle : s.busy = false) (hbusy : t.busy = true) :
    t.result = .frameOk ∧ t.sel ≠ 0 ∧ t.faults = s.faults := by
  obtain ⟨hresult, hsel⟩ : t.result = .frameOk ∧ t.sel ≠ 0 := by
    rcases h.view_cases hidle with ⟨_, _, _, hkept⟩ | ⟨size, region, hd⟩
    · obtain ⟨hwas, _⟩ := hkept hbusy
      exact absurd (hidle.symm.trans hwas) Bool.false_ne_true
    · obtain ⟨_, hselected, _⟩ := hd.latchCoherent
      exact ⟨hd.result_eq, hselected hbusy⟩
  refine ⟨hresult, hsel, ?_⟩
  cases h with
  | stop => rfl
  | unwritten => exact absurd (hidle.symm.trans hbusy) Bool.false_ne_true
  | frame => simp

/-- A turn from an idle block is POLL, RD STATUS, and the service of the state they leave (R239). -/
theorem hostTurn_of_idle {s t : State} (e : Env) (hidle : s.busy = false) (hpoll : exec .poll s = .next t) :
    hostTurn s e = ((serve (returnWord (statusWord t) t) e).1, .next (serve (returnWord (statusWord t) t) e).2) := by
  rw [hostTurn, hpoll]
  exact if_neg (by simp [hidle])

/-- Serving a command does not depend on what the host has read. -/
theorem serve_returnWord_of_due {t : State} (e : Env) (v : Word) (due : commandDue t = true) :
    serve (returnWord v t) e =
      ((handle t e).1, { t with rdata := v, script := dispatchReads t ++ (handle t e).2 ++ t.script }) :=
  serve_of_due (s := returnWord v t) e due

theorem serve_returnWord_of_idle {t : State} (e : Env) (v : Word) (hidle : t.busy = false) :
    serve (returnWord v t) e = (e, { t with rdata := v }) :=
  serve_of_not_due (s := returnWord v t) e (not_commandDue (.inr hidle))

/-- Settles O60: the cases of a handler, whether a command is due, and what a POLL of an idle block leaves. -/
theorem handlersUseOnlyTheHostInterface : Obligations.HandlersUseOnlyTheHostInterface := by
  refine ⟨fun _ _ _ => mem_handle_steps, fun s e h => ?notDue, fun s e hresult hbusy => ?isDue, fun s e hidle => ?turn⟩
  case notDue => exact ⟨handle_not_due s e (not_commandDue h), serve_of_not_due e (not_commandDue h)⟩
  case isDue =>
    have due : commandDue s = true := (commandDue_iff s).2 ⟨hresult, hbusy⟩
    refine ⟨handle_of_unselected e, fun hsel => (handle_case e due hsel).session_eq, fun hreboot => ?reboot, fun hlow hhigh => ?row,
      serve_of_due e due⟩
    case reboot => exact (handle_case e due (by simp [hreboot])).steps_of_reboot hreboot
    case row => exact (handle_case e due (by bv_omega)).steps_of_row hlow hhigh
  case turn =>
    have hpoll := exec_poll_of_idle hidle
    generalize pollIdle s = t at hpoll
    have polled : PollCase s t := pollCase_of_exec_poll hidle hpoll
    refine ⟨t, hpoll, ?_⟩
    rw [hostTurn_of_idle e hidle hpoll]
    by_cases hbusy : t.busy = true
    · obtain ⟨hresult, hsel, hfaults⟩ := polled.dispatched_of_busy hidle hbusy
      rw [serve_returnWord_of_due e _ ((commandDue_iff t).2 ⟨hresult, hbusy⟩), polled.script_eq]
      exact .inl ⟨hresult, hsel, hfaults, hbusy, rfl⟩
    · have hdone : t.busy = false := Bool.eq_false_iff.2 hbusy
      rw [serve_returnWord_of_idle e _ hdone]
      exact .inr ⟨hdone, rfl⟩

end Sys2Proof.Machine
end

section
/-! Faults and the outcome of a POLL (60_exceptions.md R300 to R304): what a faulting step changes, where the terminal reading ends, and R301's
table row by row. -/

namespace Sys2Proof.Machine

/-! ### What a fault changes -/

/-- A fault of a POLL that is not refused has only its sticky bit (R300). -/
theorem PollCase.unfaulted_or_raiseFault {s t : State} (h : PollCase s t) :
    t.faults = s.faults ∨ t = raiseFault .unwrittenRead s := by
  cases h with
  | stop => exact .inl rfl
  | unwritten => exact .inr rfl
  | frame => exact .inl (by simp)

/-- Settles O47: an instruction that faults does so through `raiseFault`, whether or not it then returns a value to the host. -/
theorem faultsHaveOnlyTheirStickyBit : Obligations.FaultsHaveOnlyTheirStickyBit := by
  intro i s t h
  cases exec_cases i s t h with
  | poll _ _ hp => exact hp.unfaulted_or_raiseFault.imp id fun ht => ⟨.unwrittenRead, by rw [ht]; rfl⟩
  | fault _ f => exact .inr ⟨f, rfl⟩
  | faultReturned _ f => exact .inr ⟨f, rfl⟩
  | _ => exact .inl rfl

/-! ### The terminal reading -/

section
variable {s t : State} (h : step s = .next t)
include h

theorem modelStep_of_unfaulted (hf : t.faults = s.faults) : modelStep s = .next t := by
  simp only [modelStep, h, hf, List.drop_length]

theorem modelStep_of_faulted {f : Fault} (hf : t.faults = s.faults ++ [f]) : modelStep s = .fault f := by
  simp only [modelStep, h, hf, List.drop_left]

end

/-- Settles O51: what a step adds to the record is what stands behind the record before it. -/
theorem modelStepEndsExactlyAtAFault : Obligations.ModelStepEndsExactlyAtAFault := fun _ _ h =>
  ⟨modelStep_of_unfaulted h, fun _ => modelStep_of_faulted h⟩

/-! ### Written pending bytes -/

/-- Settles O31: the one fault of a POLL that is not refused is the read of an unwritten pending byte. -/
theorem pollOfWrittenBytesNeverFaults : Obligations.PollOfWrittenBytesNeverFaults := fun _ hbusy hw =>
  ⟨_, exec_poll_of_idle hbusy, pollIdle_faults_of_pendingWritten hw⟩

section
variable {s : State} (hw : pendingWritten s)
include hw

theorem exists_pendingByte {k : Nat} (hk : k < pendingLength s) : ∃ b, pendingByte s k = some b :=
  Option.ne_none_iff_exists'.1 (hw k hk)

/-- A header with a smallest frame pending carries a size (R107). -/
theorem exists_sizeAt {k : Nat} (h8 : 8 ≤ pendingLength s - k) : ∃ size, sizeAt s k size := by
  obtain ⟨lo, hlo⟩ := exists_pendingByte hw (k := k + 2) (by omega)
  obtain ⟨hi, hhi⟩ := exists_pendingByte hw (k := k + 3) (by omega)
  exact ⟨le16 lo hi, lo, hi, hlo, hhi, rfl⟩

/-- Any stretch of the pending bytes is a list of bytes. -/
theorem exists_pendingBytes {k n : Nat} (hn : k + n ≤ pendingLength s) :
    ∃ bs : List Byte, bs.length = n ∧ ∀ i, i < n → pendingByte s (k + i) = bs[i]? := by
  choose byte hbyte using fun i : Fin n => exists_pendingByte hw (k := k + i) (by omega)
  exact ⟨List.ofFn byte, List.length_ofFn, fun i hi => by simp [hi, hbyte ⟨i, hi⟩]⟩

/-- A complete frame with its footer at the first candidate is pending with some payload and CRC (R110, R111). -/
theorem exists_framePending {k : Nat} {size : U16} (hc : firstCandidate s k) (hs : sizeAt s k size)
    (hlen : size.toNat + 8 ≤ pendingLength s - k) (hf : footerAt s k size) : ∃ raw, framePending s k size raw := by
  have cap : pendingLength s < 256 := pendingCount_lt _ _
  obtain ⟨raw, hraw, hbyte⟩ := exists_pendingBytes hw (k := k + 4) (n := size.toNat + 2) (by omega)
  exact ⟨raw, hc, by omega, hs, by rw [ringCapacity_eq]; omega, hlen, hf, hraw, hraw.symm ▸ hbyte⟩

/-! ### The scan, by the candidates -/

/-- Where the scan of the pending bytes ends: past them all where none is a candidate, else at the first candidate (R104 to R106, R301). -/
theorem scanHeader_candidates :
    (scanHeader s.ring s.rptr (pendingLength s) = .exhausted ∧ ∀ k, ¬candidate s k) ∨
    ∃ k, firstCandidate s k ∧ scanHeader s.ring s.rptr (pendingLength s) =
      if pendingLength s - k < 8 then .tooShort (s.rptr + BitVec.ofNat 8 k)
      else .header (s.rptr + BitVec.ofNat 8 k) (pendingLength s - k) := by
  have finds := scanHeader_finds s.ring s.rptr (pendingLength s)
  cases hscan : scanHeader s.ring s.rptr (pendingLength s) with
  | exhausted =>
    rw [hscan] at finds
    exact .inl ⟨rfl, fun k hk => passedOver_not_candidate s k (finds k hk.1) hk⟩
  | tooShort p =>
    rw [hscan] at finds
    obtain ⟨k, hk, rfl, hmark, hshort, hpassed⟩ := finds
    exact .inr ⟨k, ⟨⟨hk, hmark, .inl hshort⟩, fun j hj => passedOver_not_candidate s j (hpassed j hj)⟩, (if_pos hshort).symm⟩
  | header p avail =>
    rw [hscan] at finds
    obtain ⟨k, hk, rfl, rfl, h8, hmark, hmark', hpassed⟩ := finds
    exact .inr ⟨k, ⟨⟨hk, hmark, .inr hmark'⟩, fun j hj => passedOver_not_candidate s j (hpassed j hj)⟩,
      (if_neg (by omega)).symm⟩
  | unwritten =>
    rw [hscan] at finds
    obtain ⟨k, hk, hnone⟩ := finds
    exact absurd hnone (hw k hk)

/-- R301 row 2. -/
theorem scanFrame_of_no_candidate (hpends : s.rptr ≠ s.wptr) (hno : ∀ k, ¬candidate s k) :
    scanFrame s.ring s.rptr s.wptr = .stop .noMarker s.wptr := by
  rcases scanHeader_candidates hw with ⟨hscan, _⟩ | ⟨k, ⟨hk, _⟩, _⟩
  · rw [pendingLength] at hscan
    rw [scanFrame, if_neg hpends, hscan]
  · exact absurd hk (hno k)

section
variable {k : Nat} (hc : firstCandidate s k)
include hc

theorem scanFrame_of_firstCandidate :
    scanFrame s.ring s.rptr s.wptr =
      if pendingLength s - k < 8 then .stop .incomplete (s.rptr + BitVec.ofNat 8 k)
      else checkFrame s.ring (s.rptr + BitVec.ofNat 8 k) s.wptr (pendingLength s - k) := by
  have pends : s.rptr ≠ s.wptr := fun he => by
    obtain ⟨⟨hk, _⟩, _⟩ := hc
    rw [pendingLength, he, pendingCount_self] at hk
    omega
  rcases scanHeader_candidates hw with ⟨_, hno⟩ | ⟨j, hj, hscan⟩
  · exact absurd hc.1 (hno k)
  · cases firstCandidate_unique s j k hj hc
    rw [scanFrame, if_neg pends, ← pendingLength, hscan]
    by_cases hshort : pendingLength s - k < 8
    · rw [if_pos hshort, if_pos hshort]
    · rw [if_neg hshort, if_neg hshort]

/-- R301 row 3. -/
theorem scanFrame_of_tooShort (hshort : pendingLength s - k < 8) :
    scanFrame s.ring s.rptr s.wptr = .stop .incomplete (s.rptr + BitVec.ofNat 8 k) := by
  rw [scanFrame_of_firstCandidate hw hc, if_pos hshort]

/-- With a smallest frame pending at the first candidate, the checks on its size decide (R107). -/
theorem scanFrame_of_sizeAt (h8 : 8 ≤ pendingLength s - k) {size : U16} (hs : sizeAt s k size) :
    scanFrame s.ring s.rptr s.wptr =
      checkSize s.ring (s.rptr + BitVec.ofNat 8 k) s.wptr (pendingLength s - k) size := by
  obtain ⟨lo, hi, hlo, hhi, rfl⟩ := hs
  rw [pendingByte] at hlo hhi
  rw [scanFrame_of_firstCandidate hw hc, if_neg (by omega)]
  simp only [checkFrame, ringByte_add, hlo, hhi]

end

end

/-! ### The checks on a size -/

section
variable {ring : Memory} {p w : Cursor} {avail : Nat} {size : U16}

/-- R301 row 4. -/
theorem checkSize_of_overflow (h : size.toNat + 8 > 256) : checkSize ring p w avail size = .stop .sizeOverflow w :=
  if_pos h

/-- R301 row 5. -/
theorem checkSize_of_incomplete (hcap : size.toNat + 8 ≤ 256) (h : avail < size.toNat + 8) :
    checkSize ring p w avail size = .stop .incomplete p := by
  rw [checkSize, frameLength_eq, ringCapacity_eq, if_neg (by omega), if_pos h]

/-- R301 row 6. -/
theorem checkSize_of_not_footer (hcap : size.toNat + 8 ≤ 256) (hlen : size.toNat + 8 ≤ avail) {f0 f1 : Byte}
    (h6 : ringByte ring p (size.toNat + 6) = some f0) (h7 : ringByte ring p (size.toNat + 7) = some f1)
    (h : ¬(f0 = Config.device.markF0 ∧ f1 = Config.device.markF1)) : checkSize ring p w avail size = .stop .badFooter w := by
  rw [checkSize, frameLength_eq, ringCapacity_eq, if_neg (by omega), if_neg (by omega)]
  simp only [checkFooter, footerOffset_eq, h6, h7]
  exact if_pos (not_and_or.1 h)

end

/-- A complete frame at `k` without its footer fails the framing checks there (R110). -/
theorem checkSize_of_not_footerAt {s : State} (hw : pendingWritten s) {k : Nat} {size : U16}
    (hlen : size.toNat + 8 ≤ pendingLength s - k) (hf : ¬footerAt s k size) :
    checkSize s.ring (s.rptr + BitVec.ofNat 8 k) s.wptr (pendingLength s - k) size = .stop .badFooter s.wptr := by
  have cap : pendingLength s < 256 := pendingCount_lt _ _
  obtain ⟨f0, h6⟩ := exists_pendingByte hw (k := k + size.toNat + 6) (by omega)
  obtain ⟨f1, h7⟩ := exists_pendingByte hw (k := k + size.toNat + 7) (by omega)
  rw [footerAt, h6, h7, Option.some_inj, Option.some_inj] at hf
  rw [pendingByte, Nat.add_assoc, ← ringByte_add] at h6 h7
  exact checkSize_of_not_footer (by omega) hlen h6 h7 hf

/-! ### The outcome table -/

theorem pollIdle_outcome_of_stop {s : State} {r : PollResult} {p : Cursor} (h : scanFrame s.ring s.rptr s.wptr = .stop r p) :
    (pollIdle s).result = r ∧ (pollIdle s).rptr = p := by
  rw [pollIdle_of_stop h]
  exact ⟨rfl, rfl⟩

/-- Settles O32: without a frame, what phase 1 stops with; with one, what its CRC gives. -/
theorem pollOutcomeIsTheFirstRowThatHolds : Obligations.PollOutcomeIsTheFirstRowThatHolds := by
  intro s hbusy hw
  refine ⟨_, exec_poll_of_idle hbusy, fun hempty => ?noData, fun hpends hno => ?noMarker,
    fun k hc => ⟨fun hshort => ?tooShort, fun h8 => ?sized⟩⟩
  case noData => exact pollIdle_outcome_of_stop (if_pos hempty)
  case noMarker => exact pollIdle_outcome_of_stop (scanFrame_of_no_candidate hw hpends hno)
  case tooShort => exact pollIdle_outcome_of_stop (scanFrame_of_tooShort hw hc hshort)
  case sized =>
    obtain ⟨size, hs⟩ := exists_sizeAt hw h8
    have scan := scanFrame_of_sizeAt hw hc h8 hs
    refine ⟨size, hs, fun hover => ?overflow, fun hcap hlen => ?incomplete, fun hlen hf => ?badFooter, fun hlen hf => ?frame⟩
    case overflow => exact pollIdle_outcome_of_stop (scan.trans (checkSize_of_overflow hover))
    case incomplete => exact pollIdle_outcome_of_stop (scan.trans (checkSize_of_incomplete hcap hlen))
    case badFooter => exact pollIdle_outcome_of_stop (scan.trans (checkSize_of_not_footerAt hw hlen hf))
    case frame =>
      obtain ⟨raw, hpending⟩ := exists_framePending hw hc hs hlen hf
      rw [pollIdle_of_framePending hw hpending]
      refine ⟨interpretFrame_rptr .., raw, hpending, fun hcrc => ?_, fun hcrc => ?_⟩
      · rw [interpretFrame_mismatch size raw (pastFrame s k size) hcrc]
      · rw [interpretFrame_ok size raw (pastFrame s k size) hcrc, latch_result]

end Sys2Proof.Machine
end

section
/-! RESET, and what bounds a POLL's progress (10_state.md R42; 40_scanner.md R109, R116; 45_interface_ops.md R240; 70_reset_and_hazards.md R340,
R341, R344, R353). -/

namespace Sys2Proof.Machine

/-! ### Bytes pending -/

section
variable {s : State}

theorem rptr_ne_wptr_of_pending (h : 0 < pendingLength s) : s.rptr ≠ s.wptr := fun he =>
  absurd ((pendingCount_eq_zero _ _).2 he) (Nat.ne_of_gt h)

theorem firstCandidate.rptr_ne_wptr {k : Nat} (h : firstCandidate s k) : s.rptr ≠ s.wptr := by
  obtain ⟨⟨hk, _⟩, _⟩ := h
  exact rptr_ne_wptr_of_pending (by omega)

end

/-- A cursor moved over some bytes, but fewer than the capacity, is elsewhere. -/
theorem cursor_moved_ne (p : Cursor) {n : Nat} (hpos : 0 < n) (hcap : n < 256) : p + BitVec.ofNat 8 n ≠ p := fun he => by
  have moved := pendingCount_moved p hcap
  rw [he, pendingCount_self] at moved
  omega

/-! ### A header that never completes -/

section
variable {s : State}

/-- With both start markers at the read cursor and a smallest frame pending, the checks on the header's size decide, whatever else is
pending or unwritten (R104 to R107). -/
theorem scanFrame_of_markers_zero (h8 : 8 ≤ pendingLength s) (h0 : pendingByte s 0 = some Config.device.markS0)
    (h1 : pendingByte s 1 = some Config.device.markS1) {size : U16} (hs : sizeAt s 0 size) :
    scanFrame s.ring s.rptr s.wptr = checkSize s.ring s.rptr s.wptr (pendingLength s) size := by
  obtain ⟨lo, hi, h2, h3, rfl⟩ := hs
  have header : scanHeader s.ring s.rptr (pendingCount s.rptr s.wptr) = .header s.rptr (pendingLength s) :=
    scanHeader_at_markers h8 h0 h1
  rw [Nat.zero_add, pendingByte] at h2 h3
  rw [scanFrame, if_neg (rptr_ne_wptr_of_pending (by omega)), header]
  simp only [checkFrame, h2, h3]

/-- A size of 248 fits the ring's capacity but never its `C - 1` pending bytes (R58, R109, R344). -/
theorem checkSize_of_size_248 {size : U16} (hsize : size.toNat = 248) :
    checkSize s.ring s.rptr s.wptr (pendingLength s) size = .stop .incomplete s.rptr := by
  have cap : pendingLength s < 256 := pendingCount_lt _ _
  exact checkSize_of_incomplete (by omega) (by omega)

end

/-- Settles O38: the scan stops at the header, and its frame of 256 bytes is never wholly pending. -/
theorem size248HeaderStalls : Obligations.Size248HeaderStalls := by
  intro s hbusy h8 h0 h1 h2 h3
  have hs : sizeAt s 0 (le16 0xF8 0x00) := ⟨0xF8, 0x00, h2, h3, rfl⟩
  have scan : scanFrame s.ring s.rptr s.wptr = .stop .incomplete s.rptr :=
    (scanFrame_of_markers_zero h8 h0 h1 hs).trans (checkSize_of_size_248 (by decide))
  rw [exec_poll_of_idle hbusy, pollIdle_of_stop scan]

/-! ### Progress -/

/-- A phase 1 that stops for good drops every pending byte, and there is one (R104, R108, R110, R116). -/
theorem PhaseOne.stop_drops_pending {s : State} {r : PollResult} {p : Cursor} (h : PhaseOne s (.stop r p)) (hdata : r ≠ .noData)
    (hinc : r ≠ .incomplete) : p = s.wptr ∧ s.rptr ≠ s.wptr := by
  cases h with
  | noData => exact absurd rfl hdata
  | noMarker hpends => exact ⟨rfl, hpends⟩
  | tooShort => exact absurd rfl hinc
  | overflow k size hc => exact ⟨rfl, hc.rptr_ne_wptr⟩
  | incomplete => exact absurd rfl hinc
  | badFooter k size hc => exact ⟨rfl, hc.rptr_ne_wptr⟩

/-- A frame is at least 8 bytes long and wholly pending, so taking it moves the read cursor (R112). -/
theorem framePending.advances {s : State} {k : Nat} {size : U16} {raw : List Byte} (h : framePending s k size raw) :
    (interpretFrame size raw (pastFrame s k size)).rptr ≠ s.rptr := by
  obtain ⟨hle, hrptr, _⟩ := h.leavesPending_past
  have cap : pendingLength s < 256 := pendingCount_lt _ _
  rw [hrptr]
  exact cursor_moved_ne s.rptr (by omega) (by omega)

/-- Settles O39: without a frame the POLL drops the pending bytes, with one it moves past it. -/
theorem pollMakesProgress : Obligations.PollMakesProgress := by
  intro s t hbusy h hfaults hdata hinc
  cases pollCase_of_exec_poll hbusy h with
  | stop r p hp =>
    obtain ⟨rfl, hpends⟩ := hp.stop_drops_pending hdata hinc
    exact hpends.symm
  | unwritten => simp at hfaults
  | frame k size raw hf =>
    rw [consumeFrame_eq_pastFrame]
    exact hf.advances

/-! ### RESET -/

/-- RESET is the reset state but for what is no element of the block (R42, R340). -/
theorem exec_reset (s : State) :
    exec .reset s = .next
      { State.reset with tx := s.tx, faults := s.faults, rdata := s.rdata, draws := s.draws, script := s.script } := rfl

/-- Settles O13: each element by the law of its reset value. -/
theorem resetSetsEveryElement : Obligations.ResetSetsEveryElement := fun s =>
  ⟨_, exec_reset s, reset_enc, reset_rptr, reset_wSnap, reset_result, reset_busy, reset_cmdId, reset_fsize, reset_sel,
    reset_badop, reset_seqerr, Memory.read_nil, Memory.read_nil, Memory.read_nil, reset_wptr, rfl⟩

/-- Settles O14: the four fields RESET takes from the state before it. -/
theorem resetKeepsTheRecords : Obligations.ResetKeepsTheRecords := fun s => ⟨_, exec_reset s, rfl, rfl, rfl, rfl⟩

/-! ### The reset state meets the invariants -/

theorem memoriesCanonical_reset : memoriesCanonical State.reset := ⟨Memory.wf_nil _, Memory.wf_nil _, Memory.wf_nil _⟩

theorem pendingLength_reset : pendingLength State.reset = 0 := pendingCount_self 0

theorem pendingWritten_reset : pendingWritten State.reset := fun k hk => by
  rw [pendingLength_reset] at hk
  exact absurd hk (Nat.not_lt_zero k)

theorem agentScript_reset : agentScript State.reset := by
  rw [agentScript, reset_script]
  exact List.all_nil

/-- The id latched at reset is in no row, so no command is selected (R190). -/
theorem latchCoherent_reset : latchCoherent State.reset := by
  have noRow : mux State.reset.cmdId = 0 := mux_of_not_mem (by decide)
  refine ⟨noRow.symm, fun hbusy => ?_, Nat.zero_le _⟩
  simp at hbusy

theorem frameHeld_reset : frameHeld State.reset := fun hbusy => by simp at hbusy

theorem stickyRecorded_reset : stickyRecorded State.reset := by
  constructor <;> intro hset <;> simp at hset

/-- Settles O56, an invariant at a time. -/
theorem resetMeetsTheInvariants : Obligations.ResetMeetsTheInvariants :=
  ⟨memoriesCanonical_reset, pendingWritten_reset, agentScript_reset, latchCoherent_reset, frameHeld_reset, stickyRecorded_reset⟩

end Sys2Proof.Machine
end
